-- ==== Sys2Proof/Word.lean ====
section
/-! DEFINITION. The two word types of the block: a 32-bit register word (10_state.md R21) and a buffer byte
(10_state.md R44). -/

namespace Sys2Proof

/-- The contents of a register: 32 bits, bit 0 the least significant (00_scope.md R12, 10_state.md R21). -/
abbrev Word := BitVec 32

/-- One byte of a buffer: 8 bits, values 0 to 255 (10_state.md R44). -/
abbrev Byte := BitVec 8

end Sys2Proof
end

