-- ==== Sys2Proof/Syntax.lean ====
section
/-! DEFINITION. The syntax of the block: the nine commands of the opcode map (30_encoding.md R92), the registers by
name (10_state.md R20), the three buffers (10_state.md R44), the host's bus transactions (20_memory.md R62), the
events the machine takes one by one (00_scope.md R10), and the statements of a host program (30_encoding.md R110
and R111). -/

namespace Sys2Proof

/-- The commands, one constructor per row of the opcode table (30_encoding.md R92). A command has no operand field:
its operands are registers and buffers of fixed name (R90, R95). -/
inductive Instr where
  /-- DPUB, `DerivePublic` (41_keyagreement.md R143) -/
  | dpub
  /-- DSEC, `DeriveSecret` (41_keyagreement.md R145) -/
  | dsec
  /-- XFORM, `Transform` (42_keyedcipher.md R163) -/
  | xform
  /-- FRAME, `Frame` (43_bitpacker.md R172) -/
  | frame
  /-- UNFRAME, `Unframe` (43_bitpacker.md R175) -/
  | unframe
  /-- EMBED, `Embed` (44_stegocodec.md R191) -/
  | embed
  /-- EXTRACT, `Extract` (44_stegocodec.md R197) -/
  | extract
  /-- ENCODE, `Encode` (45_engine.md R213) -/
  | encode
  /-- DECODE, `Decode` (45_engine.md R217) -/
  | decode
deriving DecidableEq, Repr

/-- The three byte buffers (10_state.md R44 to R47). -/
inductive BufId where
  | msg
  | bits
  | pix
deriving DecidableEq, Repr

/-- The registers of the block, in the order of their offsets (10_state.md sections 2 to 4). -/
inductive Reg where
  | id | version | ctrl | status | cmd | reqbits | availbits
  | gparam | pparam | pixsz | msgsz | bitsz
  | priv | pub | secret | kind | msglen | bitlen | maxbits | imgdim | imgcfg
deriving DecidableEq, Repr

/-- A bus transaction as the triple (kind, bus address, data) of 30_encoding.md R110, of any width: `read 32 a` is
(R32, a, -), `write 8 a b` is (W8, a, b). The width is in bits and the address is relative to the block's base
(20_memory.md R60). The four kinds of R62 are `read 32`, `write 32`, `read 8` and `write 8`; every other width ends
in a bus error (R64, R65). -/
inductive BusTx where
  | read  (bits addr : Nat)
  | write (bits addr data : Nat)
deriving DecidableEq, Repr

/-- What can happen next: a host step, the engine's turn, or a hardware reset (00_scope.md R10, 70_reset_and_hazards.md
R260). -/
inductive Event where
  /-- a host step: one bus transaction (R10) -/
  | bus (t : BusTx)
  /-- the engine's turn: its completion step if it has one (40_command_protocol.md R124) -/
  | engine
  /-- the reset input is asserted and released (70_reset_and_hazards.md R260) -/
  | hwReset
deriving DecidableEq, Repr

/-- The statements and pseudo-statements of a host program (30_encoding.md R110, R111). `polls` is how many times
`WAIT` reads STATUS before the engine completes; no rule fixes that number (R111). -/
inductive Stmt where
  | wr      (r : Reg) (v : Word)
  | rd      (r : Reg)
  | wrb     (sp : BufId) (i : Nat) (b : Byte)
  | rdb     (sp : BufId) (i : Nat)
  | cmd     (c : Instr)
  | wait    (polls : Nat)
  | run     (c : Instr) (polls : Nat)
  | clrdone
  | srst
  | img     (w h : BitVec 16) (alpha : Word)
  | ldmsg   (bytes : List Byte)
  | ldpix   (bytes : List Byte)
  | ldbits  (bytes : List Byte) (len : Word)
deriving DecidableEq, Repr

end Sys2Proof
end

