-- ==== Sys2Proof/Config.lean ====
section
/-! DEFINITION. What an implementation fixes (00_scope.md R5 and R6, 10_state.md R49) and the one free value the spec
leaves open: the contents of a buffer byte that nothing has written (20_memory.md R80). The values of this hardware
stand in Sys2Proof/Machine/Params.lean. -/

namespace Sys2Proof

/-- The configuration a model takes as parameters (10_state.md R49): generator and modulus of the key agreement
(00_scope.md R5), the two chosen buffer sizes (R6) and the keystream function (42_keyedcipher.md R161). -/
structure Config.Params where
  /-- the generator `G` -/
  G : Nat
  /-- the modulus `P` -/
  P : Nat
  /-- `PIX_BYTES` -/
  pixBytes : Nat
  /-- `MSG_BYTES` -/
  msgBytes : Nat
  /-- the keystream byte `KS(s, i)` -/
  ks : Nat → Nat → Byte

/-- `HDR_BITS`: 32 bits of length and one Kind bit (00_scope.md R6). -/
abbrev Config.hdrBits : Nat := 33

/-- `BITS_BITS`, always derived (00_scope.md R6). -/
abbrev Config.Params.bitsBits (p : Config.Params) : Nat := Config.hdrBits + 8 * p.msgBytes

/-- `BITS_BYTES`, always derived (00_scope.md R6). -/
abbrev Config.Params.bitsBytes (p : Config.Params) : Nat := (p.bitsBits + 7) / 8

/-- FREE VALUE (log entries 3 and 5): what address `a` of a buffer holds while nothing has written it since its
contents last became unspecified; `epoch` counts how often they have (20_memory.md R80; 93_implementation_defined.md
U1, U2). It has no body: every statement about it holds for every contents. -/
opaque Config.freeByte : BufId → (epoch a : Nat) → Byte

end Sys2Proof
end

