-- ==== Sys2Proof/WellFormed.lean ====
section
/-! DEFINITION. Well-formedness checks: of a command (there is nothing to check, 30_encoding.md R90), of a command
word (R91), of a bus transaction's data, and of a configuration (00_scope.md R6). -/

namespace Sys2Proof

/-- A command has no operand field, so every command is well-formed (30_encoding.md R90). -/
def Instr.wellFormed : Instr → Bool
  | .dpub => true
  | .dsec => true
  | .xform => true
  | .frame => true
  | .unframe => true
  | .embed => true
  | .extract => true
  | .encode => true
  | .decode => true

/-- A command word is legal when ZERO (bits 31:8) is 0 and OP (bits 7:0) is one of the nine codes
(30_encoding.md R91). -/
def legalWord (w : Word) : Bool :=
  w.toNat / 256 == 0 && 1 ≤ w.toNat % 256 && w.toNat % 256 ≤ 9

/-- The data of a write fits its width. -/
def BusTx.wellFormed : BusTx → Bool
  | .read _ _ => true
  | .write bits _ data => data < 2 ^ bits

/-- The constraints on a configuration: `HDR_BITS + 8 * MSG_BYTES >= PIX_BYTES` (00_scope.md R6) and `P >= 2`
(92_eei_decisions.md, parameters left open). -/
def Config.Params.wellFormed (p : Config.Params) : Bool :=
  p.pixBytes ≤ p.bitsBits && 2 ≤ p.P

end Sys2Proof
end

