-- ==== Sys2Proof/Decode.lean ====
section
/-! DEFINITION. The decoder of the command word, total on every 32-bit word and rejecting by name, and after it the
encoder (30_encoding.md R90 to R94). -/

namespace Sys2Proof

/-- Why a word is no command (30_encoding.md R93). -/
inductive DecodeError where
  /-- bits 31:8 are not all 0 (R91) -/
  | zeroFieldNotZero (zero : BitVec 24)
  /-- OP is 0x00 or 0x0A to 0xFF (R93) -/
  | reservedOp (op : Byte)
deriving DecidableEq, Repr

/-- Field OP, bits 7:0 (30_encoding.md R90). -/
def opField (w : Word) : Byte := w.extractLsb' 0 8

/-- Field ZERO, bits 31:8 (30_encoding.md R90). -/
def zeroField (w : Word) : BitVec 24 := w.extractLsb' 8 24

/-- The opcode map (30_encoding.md R92). -/
def opcode (op : Byte) : Option Instr :=
  match op.toNat with
  | 1 => some .dpub
  | 2 => some .dsec
  | 3 => some .xform
  | 4 => some .frame
  | 5 => some .unframe
  | 6 => some .embed
  | 7 => some .extract
  | 8 => some .encode
  | 9 => some .decode
  | _ => none

/-- Decoding is a pure function of the 32-bit word (30_encoding.md R94). -/
def decode (w : Word) : Except DecodeError Instr :=
  if zeroField w ≠ 0 then .error (.zeroFieldNotZero (zeroField w))
  else
    match opcode (opField w) with
    | some i => .ok i
    | none => .error (.reservedOp (opField w))

/-- The word of each command (30_encoding.md R92, column "word"). -/
def encode : Instr → Word
  | .dpub => 0x00000001
  | .dsec => 0x00000002
  | .xform => 0x00000003
  | .frame => 0x00000004
  | .unframe => 0x00000005
  | .embed => 0x00000006
  | .extract => 0x00000007
  | .encode => 0x00000008
  | .decode => 0x00000009

/-- A row of the opcode table as a command word: the low `nbits` bits of `w`, higher bits 0. -/
def tableWord (nbits w : Nat) : Word := BitVec.ofNat 32 (w % 2 ^ nbits)

/-- The command the decoder reads from an opcode-table row's word. There is one command length, 32 bits
(30_encoding.md R90), so a longer row is no command. -/
def decodeTableWord (nbits w : Nat) : Option Instr :=
  if 32 < nbits then none
  else
    match decode (tableWord nbits w) with
    | .ok i => some i
    | .error _ => none

end Sys2Proof
end

