-- ==== Sys2Proof/Machine/State.lean ====
section
/-! DEFINITION. The state of one block as plain data (10_state.md R20), the reasons a step can stop, and the state
after a hardware reset (R50). -/

namespace Sys2Proof.Machine

/-- The Kind tag of a message: `text` is 0, `binary` is 1 (10_state.md R25, 30_encoding.md R101). -/
inductive Kind where
  | text
  | binary
deriving DecidableEq, Repr

/-- The completion codes 0 to 5, in this order; 6 to 15 are never produced (60_exceptions.md R230). -/
inductive CompletionCode where
  | ok
  | invalidKeyRange
  | insufficientCapacity
  | malformedFrame
  | illegalCommand
  | badOperand
deriving DecidableEq, Repr

/-- The error a command ends in, with the detail it records (60_exceptions.md R231 to R235). -/
inductive CmdError where
  | invalidKeyRange
  /-- the bits required and the bits available (60_exceptions.md R232) -/
  | insufficientCapacity (req avail : Nat)
  | malformedFrame
  | illegalCommand
  | badOperand
deriving DecidableEq, Repr

/-- How a bus transaction ended: `word` and `byte` carry the data of a read that ended ok, `written` is a write that
ended ok, and `error` carries nothing (20_memory.md R62, R63; 93_implementation_defined.md U5). -/
inductive Reply where
  | word (v : Word)
  | byte (b : Byte)
  | written
  | error
deriving DecidableEq, Repr

/-- A byte buffer: the bytes written since its contents last became unspecified, addresses strictly rising, and how
often they have become so. An unlisted byte holds the free value `Config.freeByte` of that epoch (20_memory.md R80;
log entry 3). -/
structure Buffer where
  cells : List Host.Cell
  epoch : Nat
deriving DecidableEq, Repr

/-- Everything the spec gives the block (10_state.md R20), and three things of the model's own: the coming events
(log entry 1), the port's latest reply (log entry 2) and the buffers' epochs (log entry 5). The constant registers
are no fields: `readReg` answers them (R32 to R34). -/
@[ext]
structure State where
  /-- `PRIV` (R22) -/
  priv : Word
  /-- `PUB` (R23) -/
  pub : Word
  /-- `SECRET` (R24) -/
  secret : Word
  /-- `KIND`, field K; its reserved bits read 0 (R25, R39) -/
  kind : Kind
  /-- `MSGLEN` (R26) -/
  msglen : Word
  /-- `BITLEN` (R27) -/
  bitlen : Word
  /-- `MAXBITS` (R28) -/
  maxbits : Word
  /-- `IMGDIM`: W in bits 15:0, H in bits 31:16 (R30) -/
  imgdim : Word
  /-- `IMGCFG`, field ALPHA; its reserved bits read 0 (R31, R39) -/
  alpha : Bool
  /-- `CTRL`, field IE; SRST and the reserved bits read 0 (R35) -/
  ie : Bool
  /-- `STATUS`, field BUSY (R36) -/
  busy : Bool
  /-- `STATUS`, field DONE (R36) -/
  done : Bool
  /-- `STATUS`, field ERR (R36) -/
  err : CompletionCode
  /-- `CMD`, the last accepted word (R37) -/
  cmd : Word
  /-- `REQBITS` (R38) -/
  reqbits : Word
  /-- `AVAILBITS` (R38) -/
  availbits : Word
  /-- the buffer `MSG` (R46) -/
  msg : Buffer
  /-- the buffer `BITS` (R47) -/
  bits : Buffer
  /-- the buffer `PIX` (R45) -/
  pix : Buffer
  /-- the model's own: what happens next, first event first (log entry 1) -/
  agenda : List Event
  /-- the model's own: how the latest bus transaction ended (log entry 2) -/
  reply : Option Reply
deriving DecidableEq, Repr

/-- The machine never stops with a fault: a command's error is a completion code and the block goes on
(60_exceptions.md R237), and a bus error is a reply that changes nothing (R242). So no constructor: nobody raises a
fault, which is safe. -/
inductive Fault : Type
deriving DecidableEq, Repr

/-- The machine refuses no command and no transaction: every one has exactly one defined effect
(93_implementation_defined.md, after U19). -/
inductive Refusal where
  /-- Raised only by an arm of `exec` whose instruction has no meaning yet. No arm raises it now. Safe: the step
  stops. -/
  | notModelled (mnemonic : String)
deriving DecidableEq, Repr

/-- The state after a hardware reset (10_state.md R50): every register 0, idle, the interrupt disabled, every buffer
byte unspecified. The model's own fields: nothing coming, no reply, epoch 0 (log entries 1, 2 and 5). -/
def State.reset : State where
  priv := 0
  pub := 0
  secret := 0
  kind := .text
  msglen := 0
  bitlen := 0
  maxbits := 0
  imgdim := 0
  alpha := false
  ie := false
  busy := false
  done := false
  err := .ok
  cmd := 0
  reqbits := 0
  availbits := 0
  msg := { cells := [], epoch := 0 }
  bits := { cells := [], epoch := 0 }
  pix := { cells := [], epoch := 0 }
  agenda := []
  reply := none

end Sys2Proof.Machine
end

