-- ==== Sys2Proof/Machine/Params.lean ====
section
/-! DEFINITION. The configuration of this hardware (00_scope.md R5 and R6) and its constant registers' values
(10_state.md R32 to R34). -/

namespace Sys2Proof.Machine

/-- This hardware's keystream byte: `(s + i) mod 256` (42_keyedcipher.md R161, R166). -/
def keystream (s i : Nat) : Byte := BitVec.ofNat 8 (s + i)

/-- This hardware: G = 9, P = 23 (00_scope.md R5), PIX_BYTES = 262144, MSG_BYTES = 32768 (R6), and the keystream of
42_keyedcipher.md R161. -/
abbrev hw : Config.Params where
  G := 9
  P := 23
  pixBytes := 262144
  msgBytes := 32768
  ks := keystream

/-- The constant of register `ID` (10_state.md R32). -/
def idValue : Word := 0x53544547

/-- The constant of register `VERSION` (10_state.md R32). -/
def versionValue : Word := 0x00000001

/-- The bytes of a buffer: `MSG_BYTES`, `BITS_BYTES`, `PIX_BYTES` (00_scope.md R6). -/
def bufSize : BufId → Nat
  | .msg => hw.msgBytes
  | .bits => hw.bitsBytes
  | .pix => hw.pixBytes

end Sys2Proof.Machine
end

