-- ==== Sys2Proof/Machine/Flags.lean ====
section
/-! DEFINITION. The block has no arithmetic flags; its flag-like state is KIND.K, STATUS and CTRL.IE (10_state.md
R42). Here: those fields as bits, the words the registers read as, and the interrupt line (60_exceptions.md R240). -/

namespace Sys2Proof.Machine

/-- The Kind bit: 0 Text, 1 Binary (30_encoding.md R101). -/
def Kind.bit : Kind → Bool
  | .text => false
  | .binary => true

/-- The Kind of a Kind bit (30_encoding.md R101). -/
def Kind.ofBit : Bool → Kind
  | false => .text
  | true => .binary

/-- The number of a completion code (60_exceptions.md R230). -/
def CompletionCode.num : CompletionCode → Nat
  | .ok => 0
  | .invalidKeyRange => 1
  | .insufficientCapacity => 2
  | .malformedFrame => 3
  | .illegalCommand => 4
  | .badOperand => 5

/-- The completion code of an error (60_exceptions.md R230). -/
def CmdError.code : CmdError → CompletionCode
  | .invalidKeyRange => .invalidKeyRange
  | .insufficientCapacity _ _ => .insufficientCapacity
  | .malformedFrame => .malformedFrame
  | .illegalCommand => .illegalCommand
  | .badOperand => .badOperand

/-- What an error leaves in `REQBITS`: the required bits, 0 unless the capacity is insufficient (10_state.md R38). -/
def CmdError.req : CmdError → Word
  | .insufficientCapacity req _ => BitVec.ofNat 32 req
  | .invalidKeyRange => 0
  | .malformedFrame => 0
  | .illegalCommand => 0
  | .badOperand => 0

/-- What an error leaves in `AVAILBITS`: the capacity, 0 unless it is insufficient (10_state.md R38). -/
def CmdError.avail : CmdError → Word
  | .insufficientCapacity _ avail => BitVec.ofNat 32 avail
  | .invalidKeyRange => 0
  | .malformedFrame => 0
  | .illegalCommand => 0
  | .badOperand => 0

/-- What `KIND` reads as: K in bit 0, the reserved bits 0 (10_state.md R25, R39). -/
def kindWord (s : State) : Word := BitVec.ofNat 32 s.kind.bit.toNat

/-- What `IMGCFG` reads as: ALPHA in bit 0, the reserved bits 0 (10_state.md R31, R39). -/
def imgcfgWord (s : State) : Word := BitVec.ofNat 32 s.alpha.toNat

/-- What `CTRL` reads as: IE in bit 0; SRST and the reserved bits 0 (10_state.md R35). -/
def ctrlWord (s : State) : Word := BitVec.ofNat 32 s.ie.toNat

/-- What `STATUS` reads as: BUSY in bit 0, DONE in bit 1, ERR in bits 7:4, the reserved bits 0 (10_state.md R36). -/
def statusWord (s : State) : Word :=
  BitVec.ofNat 32 (s.busy.toNat + 2 * s.done.toNat + 16 * s.err.num)

/-- The interrupt output, a level: `DONE and IE` (60_exceptions.md R240). -/
def State.irq (s : State) : Bool := s.done && s.ie

end Sys2Proof.Machine
end

