-- ==== Sys2Proof/Machine/Ops.lean ====
section
/-! DEFINITION. The named operations over the state: reading and writing buffer bytes, the bit operations of a stream
(20_memory.md R70, 44_stegocodec.md R190), one named update per write a rule makes, the issue of a command
(40_command_protocol.md R121) and its completion, of which ending in an error is one case (R124, 60_exceptions.md
R236). -/

namespace Sys2Proof.Machine

/-! ### Bytes of a buffer -/

/-- The byte written at an address, if one is (20_memory.md R80). -/
def getCell (a : Nat) : List Host.Cell → Option Byte
  | [] => none
  | (b, v) :: t => if a = b then some v else getCell a t

/-- Write one cell, keeping the addresses strictly rising. -/
def putCell (a : Nat) (v : Byte) : List Host.Cell → List Host.Cell
  | [] => [(a, v)]
  | (b, w) :: t =>
    if a < b then (a, v) :: (b, w) :: t
    else if a = b then (a, v) :: t
    else (b, w) :: putCell a v t

/-- `MemRead(SPACE, a, 1)` (00_scope.md R14): the byte last written, or the free value of a byte nothing has written
(20_memory.md R80; log entry 3). -/
def readByte (sp : BufId) (buf : Buffer) (a : Nat) : Byte :=
  match getCell a buf.cells with
  | some v => v
  | none => Config.freeByte sp buf.epoch a

/-- `MemWrite(SPACE, a, 1, v)` (00_scope.md R14). -/
def writeByte (buf : Buffer) (a : Nat) (v : Byte) : Buffer :=
  { buf with cells := putCell a v buf.cells }

/-- The `n` bytes from address `a` on, in address order. -/
def readBytes (sp : BufId) (buf : Buffer) (a n : Nat) : List Byte :=
  (List.range n).map fun i => readByte sp buf (a + i)

/-- Write bytes from address `a` on, in address order. -/
def writeBytes (buf : Buffer) (a : Nat) : List Byte → Buffer
  | [] => buf
  | v :: vs => writeBytes (writeByte buf a v) (a + 1) vs

/-- The whole contents become unspecified: nothing written, a fresh epoch of free values (93_implementation_defined.md
U1, U2; log entries 4 and 5). -/
def scrub (buf : Buffer) : Buffer :=
  { cells := [], epoch := buf.epoch + 1 }

/-- The addresses rise strictly from above `lo` on and stay below `size`. -/
def risingBelow (size : Nat) : (lo : Nat) → List Host.Cell → Bool
  | _, [] => true
  | lo, (a, _) :: t => lo ≤ a && a < size && risingBelow size (a + 1) t

/-- The canonical form of a buffer of `size` bytes: addresses strictly rising, every one inside the buffer (10_state.md
R44; log entry 3). -/
def Buffer.wf (size : Nat) (buf : Buffer) : Bool := risingBelow size 0 buf.cells

/-! ### Bits of a stream -/

/-- The bits of a byte in stream order, bit 7 first (00_scope.md R13, 20_memory.md R68 (a)). -/
def byteBits (b : Byte) : List Bool := (List.range 8).map fun t => b.getLsbD (7 - t)

/-- The `width` bits of a natural, most significant first (30_encoding.md R100). -/
def natBits (width n : Nat) : List Bool := (List.range width).map fun i => n.testBit (width - 1 - i)

/-- The natural whose bits, most significant first, are these (30_encoding.md R106). -/
def bitsToNat (l : List Bool) : Nat := l.foldl (fun acc b => 2 * acc + b.toNat) 0

/-- The byte whose bits in stream order are these eight; missing ones are 0 (20_memory.md R70). -/
def bitsToByte (l : List Bool) : Byte :=
  BitVec.ofNat 8 (bitsToNat (l ++ List.replicate (8 - l.length) false))

/-- The first `n` bytes of a stream, most significant bit first per byte; bits past its end are 0 (20_memory.md
R70). -/
def streamBytes : (n : Nat) → List Bool → List Byte
  | 0, _ => []
  | n + 1, l => bitsToByte (l.take 8) :: streamBytes n (l.drop 8)

/-- `BitRead(k)`: bit `7 - (k mod 8)` of byte `k div 8` (20_memory.md R70). -/
def bitRead (buf : Buffer) (k : Nat) : Bool := (readByte .bits buf (k / 8)).getLsbD (7 - k % 8)

/-- One bit of a byte replaced. -/
def setBit (v : Byte) (i : Nat) (b : Bool) : Byte :=
  (v &&& ~~~ (1#8 <<< i)) ||| (if b then 1#8 <<< i else 0#8)

/-- `BitWrite(k, b)`: that one bit of byte `k div 8` replaced, the other seven kept (20_memory.md R70). -/
def bitWrite (buf : Buffer) (k : Nat) (b : Bool) : Buffer :=
  writeByte buf (k / 8) (setBit (readByte .bits buf (k / 8)) (7 - k % 8) b)

/-- The first `n` bits of BITS as a bitstream (10_state.md R27). -/
def readStream (buf : Buffer) (n : Nat) : List Bool := (List.range n).map (bitRead buf)

/-- Write a bitstream into BITS from position 0 on: the unused low bits of the last byte touched become 0, later bytes
are left as they were, and an empty stream touches none (20_memory.md R70). -/
def writeStream (buf : Buffer) (l : List Bool) : Buffer :=
  writeBytes buf 0 (streamBytes ((l.length + 7) / 8) l)

/-! ### Bits of an image -/

/-- `POS(k)`: the PIX address of position `k` with `cpp` bytes per pixel (44_stegocodec.md R186). -/
def pos (cpp k : Nat) : Nat := k / 3 * cpp + k % 3

/-- The byte with bit 0 replaced and bits 7:1 kept (44_stegocodec.md R190). -/
def setLsb (v : Byte) (b : Bool) : Byte := (v &&& 0xFE#8) ||| (if b then 1#8 else 0#8)

/-- Read the bit of position `k` (44_stegocodec.md R190). -/
def lsbAt (cpp : Nat) (pix : Buffer) (k : Nat) : Bool := (readByte .pix pix (pos cpp k)).getLsbD 0

/-- Write the bit of position `k` (44_stegocodec.md R190). -/
def putLsb (cpp : Nat) (pix : Buffer) (k : Nat) (b : Bool) : Buffer :=
  writeByte pix (pos cpp k) (setLsb (readByte .pix pix (pos cpp k)) b)

/-- Embed a bitstream at positions `k`, `k + 1`, … in turn. -/
def embedFrom (cpp : Nat) (pix : Buffer) (k : Nat) : List Bool → Buffer
  | [] => pix
  | b :: bs => embedFrom cpp (putLsb cpp pix k b) (k + 1) bs

/-- `EMBEDBITS(pix, s, n)` with `n` the length of the stream (44_stegocodec.md R195). -/
def embedBits (cpp : Nat) (pix : Buffer) (l : List Bool) : Buffer := embedFrom cpp pix 0 l

/-- `EXTRACTBITS(pix, n)` (44_stegocodec.md R195). -/
def extractBits (cpp : Nat) (pix : Buffer) (n : Nat) : List Bool := (List.range n).map (lsbAt cpp pix)

/-! ### The writes of commands and of the host, one named update each (10_state.md R29) -/

def State.withPriv (s : State) (v : Word) : State := { s with priv := v }

def State.withPub (s : State) (v : Word) : State := { s with pub := v }

def State.withSecret (s : State) (v : Word) : State := { s with secret := v }

def State.withKind (s : State) (k : Kind) : State := { s with kind := k }

def State.withMsglen (s : State) (v : Word) : State := { s with msglen := v }

def State.withBitlen (s : State) (v : Word) : State := { s with bitlen := v }

def State.withMaxbits (s : State) (v : Word) : State := { s with maxbits := v }

def State.withImgdim (s : State) (v : Word) : State := { s with imgdim := v }

def State.withAlpha (s : State) (b : Bool) : State := { s with alpha := b }

def State.withIe (s : State) (b : Bool) : State := { s with ie := b }

def State.withMsg (s : State) (b : Buffer) : State := { s with msg := b }

def State.withBits (s : State) (b : Buffer) : State := { s with bits := b }

def State.withPix (s : State) (b : Buffer) : State := { s with pix := b }

def State.withAgenda (s : State) (l : List Event) : State := { s with agenda := l }

def State.withReply (s : State) (r : Reply) : State := { s with reply := some r }

/-- A buffer of the state by name. -/
def State.buf (s : State) : BufId → Buffer
  | .msg => s.msg
  | .bits => s.bits
  | .pix => s.pix

/-- A buffer of the state replaced by name. -/
def State.withBuf (s : State) (sp : BufId) (b : Buffer) : State :=
  match sp with
  | .msg => s.withMsg b
  | .bits => s.withBits b
  | .pix => s.withPix b

/-- A bitstream and its length, as FRAME and EXTRACT write them (10_state.md R29). -/
def State.withStream (s : State) (l : List Bool) : State :=
  (s.withBits (writeStream s.bits l)).withBitlen (BitVec.ofNat 32 l.length)

/-- A message, its length and its Kind, as UNFRAME and DECODE write them (10_state.md R29). -/
def State.withMessage (s : State) (bytes : List Byte) (k : Kind) : State :=
  ((s.withMsg (writeBytes s.msg 0 bytes)).withMsglen (BitVec.ofNat 32 bytes.length)).withKind k

/-! ### Issue and completion -/

/-- Issue of a command word, legal or not (40_command_protocol.md R121). -/
def issue (s : State) (w : Word) : State :=
  { s with cmd := w, busy := true, done := false, err := .ok, reqbits := 0, availbits := 0 }

/-- `complete OK`: the completion step with code OK, of a state that holds the command's writes (00_scope.md R14,
40_command_protocol.md R124). -/
def completeOk (s : State) : State :=
  { s with err := .ok, reqbits := 0, availbits := 0, busy := false, done := true }

/-- `raise E`: the completion step with an error code, none of the command's writes performed. This is all that taking
an exception is on this block: nothing is saved and control goes nowhere (60_exceptions.md R236, R237), and there is no
return from it (R247). -/
def raiseError (s : State) (e : CmdError) : State :=
  { s with err := e.code, reqbits := e.req, availbits := e.avail, busy := false, done := true }

/-- The outcome of a command (40_command_protocol.md R123): the state with its writes performed, or an error. -/
abbrev CmdOutcome := Except CmdError State

/-- The completion step (40_command_protocol.md R124). -/
def complete (s : State) : CmdOutcome → State
  | .ok t => completeOk t
  | .error e => raiseError s e

/-- A completion as the outcome of a machine step: the machine always goes on (00_scope.md R15). -/
def completion (s : State) (o : CmdOutcome) : Host.Outcome State Fault Refusal := .next (complete s o)

/-- The command word in flight (10_state.md R40). -/
def fetchWord (s : State) : Word := s.cmd

/-- A command word placed in flight as its issue does, the engine's turn being next (log entry 7). -/
def placeWord (s : State) (w : Word) : State :=
  (issue s w).withAgenda (match s.agenda with
    | [] => []
    | e :: rest => .engine :: e :: rest)

end Sys2Proof.Machine
end

