-- ==== Sys2Proof/Machine/Operands.lean ====
section
/-! DEFINITION. The operands of the commands and the checks on them: every operand is a register or a buffer of fixed
name (30_encoding.md R90, R95), checked as a whole unsigned number (00_scope.md R11). -/

namespace Sys2Proof.Machine

/-- Field W of `IMGDIM`, bits 15:0 (10_state.md R30). -/
def State.imgW (s : State) : Nat := (s.imgdim.extractLsb' 0 16).toNat

/-- Field H of `IMGDIM`, bits 31:16 (10_state.md R30). -/
def State.imgH (s : State) : Nat := (s.imgdim.extractLsb' 16 16).toNat

/-- `CPP`, bytes per pixel: 3 + ALPHA (10_state.md R31). -/
def State.cpp (s : State) : Nat := 3 + s.alpha.toNat

/-- `CAP`, the capacity of the configured image in bits (44_stegocodec.md R188). -/
def State.cap (s : State) : Nat := 3 * s.imgW * s.imgH

/-- `GEOM_OK`, on exact naturals (44_stegocodec.md R187). -/
def State.geomOk (s : State) : Bool := s.cpp * s.imgW * s.imgH ≤ hw.pixBytes

/-- `PRIV_OK(v)` (41_keyagreement.md R144). -/
def privOk (v : Word) : Bool := 1 ≤ v.toNat && v.toNat ≤ hw.P - 1

/-- `PUB_OK(v)` (41_keyagreement.md R144). -/
def pubOk (v : Word) : Bool := v.toNat ≤ hw.P - 1

/-- `SECRET` is a SharedSecret (60_exceptions.md R235 (d)). -/
def secretOk (v : Word) : Bool := v.toNat ≤ hw.P - 1

/-- `MSGLEN` describes a byte sequence MSG can hold (60_exceptions.md R235 (a)). -/
def State.msglenOk (s : State) : Bool := s.msglen.toNat ≤ hw.msgBytes

/-- `BITLEN` describes a bitstream BITS can hold (60_exceptions.md R235 (b)). -/
def State.bitlenOk (s : State) : Bool := s.bitlen.toNat ≤ hw.bitsBits

/-- The message: `MSG[0 .. MSGLEN-1]` (10_state.md R46). -/
def State.message (s : State) : List Byte := readBytes .msg s.msg 0 s.msglen.toNat

/-- The bitstream: bits `0 .. BITLEN-1` of BITS (10_state.md R47). -/
def State.stream (s : State) : List Bool := readStream s.bits s.bitlen.toNat

/-! ### Modular exponentiation -/

/-- `MODPOW(b, e, m)`: the remainder of `b^e` on division by `m` (41_keyagreement.md R140). -/
def modpow (b e m : Nat) : Nat := b ^ e % m

/-- The loop of the reference algorithm, at most `fuel` times round (41_keyagreement.md R141). -/
def modpowLoop (m : Nat) : (fuel r acc e : Nat) → Nat
  | 0, r, _, _ => r
  | fuel + 1, r, acc, e =>
    if e = 0 then r
    else modpowLoop m fuel (if e % 2 = 1 then r * acc % m else r) (acc * acc % m) (e / 2)

/-- Right-to-left square-and-multiply, the algorithm the engine uses (41_keyagreement.md R141). -/
def modpowFast (b e m : Nat) : Nat := modpowLoop m e (1 % m) (b % m) e

/-- The public key of a private key (41_keyagreement.md R143). -/
def derivePublic (priv : Word) : Nat := modpow hw.G priv.toNat hw.P

/-- The shared secret of a pair (41_keyagreement.md R145). -/
def deriveSecret (priv pub : Word) : Nat := modpow pub.toNat priv.toNat hw.P

/-! ### The keyed transform -/

/-- Combine the bytes from position `i` on with their keystream bytes (42_keyedcipher.md R162). -/
def transformFrom (ks : Nat → Nat → Byte) (secret i : Nat) : List Byte → List Byte
  | [] => []
  | b :: bs => (b ^^^ ks secret i) :: transformFrom ks secret (i + 1) bs

/-- `TRANSFORM(b, s)` for a keystream function (42_keyedcipher.md R161, R162). -/
def transformWith (ks : Nat → Nat → Byte) (secret : Nat) (bytes : List Byte) : List Byte :=
  transformFrom ks secret 0 bytes

/-- `TRANSFORM(b, s)` of this hardware. -/
def transform (secret : Nat) (bytes : List Byte) : List Byte := transformWith hw.ks secret bytes

/-! ### The frame -/

/-- `FRAME_BITS(L)`: the bits of a frame of `L` payload bytes (30_encoding.md R103). -/
def frameLen (L : Nat) : Nat := Config.hdrBits + 8 * L

/-- `FRAMEBITS(m, kind)`: length, Kind bit, payload (43_bitpacker.md R170). -/
def frameBits (bytes : List Byte) (k : Kind) : List Bool :=
  natBits 32 bytes.length ++ k.bit :: bytes.flatMap byteBits

/-- `UNFRAMEBITS(s, n)` with `n` the number of bits available; `none` is its failure (43_bitpacker.md R171, R176). -/
def unframeBits (l : List Bool) : Option (List Byte × Kind) :=
  if l.length < Config.hdrBits then none
  else if 8 * bitsToNat (l.take 32) > l.length - Config.hdrBits then none
  else some (streamBytes (bitsToNat (l.take 32)) (l.drop Config.hdrBits), Kind.ofBit (l.getD 32 false))

end Sys2Proof.Machine
end

