-- ==== Sys2Proof/Machine/System.lean ====
section
/-! DEFINITION. What acts on the block rather than on data (40_command_protocol.md R129): the illegal command (R128),
clearing DONE (R130), the soft reset (70_reset_and_hazards.md R263) and the hardware reset (R260). -/

namespace Sys2Proof.Machine

/-- The completion of an illegal command word (40_command_protocol.md R128). -/
def execIllegal (s : State) : Host.Outcome State Fault Refusal := completion s (.error .illegalCommand)

/-- CLRDONE: a write to `STATUS` with bit 1 set; one with bit 1 clear changes nothing (40_command_protocol.md R130,
10_state.md R36). -/
def writeStatus (s : State) (v : Word) : State := { s with done := s.done && !v[1] }

/-- The buffer in the "writes on OK" set of a command, if it has one (10_state.md R29; log entry 4). -/
def outputBuffer : Instr → Option BufId
  | .dpub => none
  | .dsec => none
  | .xform => some .msg
  | .frame => some .bits
  | .unframe => some .msg
  | .embed => some .pix
  | .extract => some .bits
  | .encode => some .pix
  | .decode => some .msg

/-- The output buffer of the command in flight; none for an illegal word (70_reset_and_hazards.md R263 (c)). -/
def abandonedBuffer (w : Word) : Option BufId :=
  match decode w with
  | .ok i => outputBuffer i
  | .error _ => none

/-- Every operand, control and status register at its reset value (10_state.md R50), the buffers, the coming events and
the reply kept. -/
def resetRegisters (s : State) : State :=
  { State.reset with msg := s.msg, bits := s.bits, pix := s.pix, agenda := s.agenda, reply := s.reply }

/-- The soft reset: the registers reset, the buffers kept, but for the output buffer of a command it abandons, whose
bytes become unspecified (70_reset_and_hazards.md R263; log entry 4). -/
def softReset (s : State) : State :=
  if s.busy then
    match abandonedBuffer s.cmd with
    | some sp => (resetRegisters s).withBuf sp (scrub (s.buf sp))
    | none => resetRegisters s
  else resetRegisters s

/-- The hardware reset: the registers reset and every byte of every buffer unspecified (70_reset_and_hazards.md R260;
log entry 6). -/
def hardwareReset (s : State) : State :=
  (((resetRegisters s).withMsg (scrub s.msg)).withBits (scrub s.bits)).withPix (scrub s.pix)

end Sys2Proof.Machine
end

