-- ==== Sys2Proof/Machine/Bus.lean ====
section
/-! DEFINITION. The slave port: the address map (20_memory.md R61), the register file (10_state.md) and the four kinds
of bus transaction with every way they end in a bus error (20_memory.md R62 to R66, 40_command_protocol.md R126). -/

namespace Sys2Proof.Machine

/-- The offset of a register (10_state.md sections 2 to 4). -/
def regOffset : Reg → Nat
  | .id => 0x000
  | .version => 0x004
  | .ctrl => 0x008
  | .status => 0x00C
  | .cmd => 0x010
  | .reqbits => 0x014
  | .availbits => 0x018
  | .gparam => 0x020
  | .pparam => 0x024
  | .pixsz => 0x028
  | .msgsz => 0x02C
  | .bitsz => 0x030
  | .priv => 0x040
  | .pub => 0x044
  | .secret => 0x048
  | .kind => 0x04C
  | .msglen => 0x050
  | .bitlen => 0x054
  | .maxbits => 0x058
  | .imgdim => 0x05C
  | .imgcfg => 0x060

/-- Every register. -/
def allRegs : List Reg :=
  [.id, .version, .ctrl, .status, .cmd, .reqbits, .availbits, .gparam, .pparam, .pixsz, .msgsz, .bitsz,
   .priv, .pub, .secret, .kind, .msglen, .bitlen, .maxbits, .imgdim, .imgcfg]

/-- The register at an offset: none at a reserved offset or a misaligned one (10_state.md R39, 20_memory.md R64). -/
def regAt (off : Nat) : Option Reg := allRegs.find? fun r => regOffset r == off

/-- The base of a buffer's region in the address map (20_memory.md R61). -/
def bufBase : BufId → Nat
  | .msg => 0x10000
  | .bits => 0x20000
  | .pix => 0x40000

/-- Where a bus address lies (20_memory.md R61). -/
inductive Region where
  | regs (off : Nat)
  | buffer (sp : BufId) (i : Nat)
  | unmapped
deriving DecidableEq, Repr

/-- A bus address lies in a buffer's region. -/
def inBuffer (sp : BufId) (a : Nat) : Bool := bufBase sp ≤ a && a < bufBase sp + bufSize sp

/-- The address map (20_memory.md R61). -/
def regionOf (a : Nat) : Region :=
  if a < 0x1000 then .regs a
  else if inBuffer .msg a then .buffer .msg (a - bufBase .msg)
  else if inBuffer .bits a then .buffer .bits (a - bufBase .bits)
  else if inBuffer .pix a then .buffer .pix (a - bufBase .pix)
  else .unmapped

/-- What a register reads as (10_state.md R21 to R38); a read never changes state (20_memory.md R66). -/
def readReg (s : State) : Reg → Word
  | .id => idValue
  | .version => versionValue
  | .ctrl => ctrlWord s
  | .status => statusWord s
  | .cmd => s.cmd
  | .reqbits => s.reqbits
  | .availbits => s.availbits
  | .gparam => BitVec.ofNat 32 hw.G
  | .pparam => BitVec.ofNat 32 hw.P
  | .pixsz => BitVec.ofNat 32 hw.pixBytes
  | .msgsz => BitVec.ofNat 32 hw.msgBytes
  | .bitsz => BitVec.ofNat 32 hw.bitsBits
  | .priv => s.priv
  | .pub => s.pub
  | .secret => s.secret
  | .kind => kindWord s
  | .msglen => s.msglen
  | .bitlen => s.bitlen
  | .maxbits => s.maxbits
  | .imgdim => s.imgdim
  | .imgcfg => imgcfgWord s

/-- A write to `CTRL`: a soft reset when bit 1 is set, bit 0 then ignored; else IE takes bit 0 (10_state.md R35). -/
def writeCtrl (s : State) (v : Word) : State :=
  if v[1] then softReset s else s.withIe (v[0])

/-- A register write on an idle block; `none` is a bus error (10_state.md R39, 20_memory.md R66). -/
def writeRegIdle (s : State) (r : Reg) (v : Word) : Option State :=
  match r with
  | .ctrl => some (writeCtrl s v)
  | .status => some (writeStatus s v)
  | .cmd => some (issue s v)
  | .priv => some (s.withPriv v)
  | .pub => some (s.withPub v)
  | .secret => some (s.withSecret v)
  | .kind => some (s.withKind (Kind.ofBit (v[0])))
  | .msglen => some (s.withMsglen v)
  | .bitlen => some (s.withBitlen v)
  | .maxbits => some (s.withMaxbits v)
  | .imgdim => some (s.withImgdim v)
  | .imgcfg => some (s.withAlpha (v[0]))
  | .id => none
  | .version => none
  | .reqbits => none
  | .availbits => none
  | .gparam => none
  | .pparam => none
  | .pixsz => none
  | .msgsz => none
  | .bitsz => none

/-- A register write: while busy only `CTRL` may be written (40_command_protocol.md R126). -/
def writeReg (s : State) (r : Reg) (v : Word) : Option State :=
  if s.busy && r != .ctrl then none else writeRegIdle s r v

/-- A read of any width (20_memory.md R62 to R65). -/
def busRead (s : State) (bits a : Nat) : Reply :=
  match regionOf a with
  | .regs off =>
    if bits = 32 then
      match regAt off with
      | some r => .word (readReg s r)
      | none => .error
    else .error
  | .buffer sp i =>
    if bits = 8 && !s.busy then .byte (readByte sp (s.buf sp) i) else .error
  | .unmapped => .error

/-- A write of any width; `none` is a bus error (20_memory.md R62 to R65). -/
def busWrite (s : State) (bits a data : Nat) : Option State :=
  match regionOf a with
  | .regs off =>
    if bits = 32 then
      match regAt off with
      | some r => writeReg s r (BitVec.ofNat 32 data)
      | none => none
    else none
  | .buffer sp i =>
    if bits = 8 && !s.busy then
      some (s.withBuf sp (writeByte (s.buf sp) i (BitVec.ofNat 8 data)))
    else none
  | .unmapped => none

/-- One bus transaction, atomic (20_memory.md R67): the state after it, its reply noted (log entry 2). One that ends
in an error changes nothing else (R63). -/
def busStep (s : State) : BusTx → State
  | .read bits a => s.withReply (busRead s bits a)
  | .write bits a data =>
    match busWrite s bits a data with
    | some t => t.withReply .written
    | none => s.withReply .error

end Sys2Proof.Machine
end

