-- ==== Sys2Proof/Machine/BitPacker.lean ====
section
/-! DEFINITION. The BitPacker family: FRAME and UNFRAME (43_bitpacker.md). -/

namespace Sys2Proof.Machine

/-- The outcome of FRAME (43_bitpacker.md R172). -/
def frameOutcome (s : State) : CmdOutcome :=
  if !s.msglenOk then .error .badOperand
  else .ok (s.withStream (frameBits s.message s.kind))

/-- FRAME (43_bitpacker.md R172). -/
def execFrame (s : State) : Host.Outcome State Fault Refusal := completion s (frameOutcome s)

/-- The outcome of UNFRAME (43_bitpacker.md R175). -/
def unframeOutcome (s : State) : CmdOutcome :=
  if !s.bitlenOk then .error .badOperand
  else
    match unframeBits s.stream with
    | none => .error .malformedFrame
    | some (m, k) => .ok (s.withMessage m k)

/-- UNFRAME (43_bitpacker.md R175). -/
def execUnframe (s : State) : Host.Outcome State Fault Refusal := completion s (unframeOutcome s)

end Sys2Proof.Machine
end

