-- ==== Sys2Proof/Machine/Engine.lean ====
section
/-! DEFINITION. The Engine family: the composites ENCODE and DECODE, which work on values and leave the primitive
commands' registers and buffers alone (45_engine.md R212). -/

namespace Sys2Proof.Machine

/-- The frame ENCODE embeds: header in clear, payload ciphered (45_engine.md R213, 30_encoding.md R105). -/
def State.encodedFrame (s : State) : List Bool :=
  frameBits (transform (deriveSecret s.priv s.pub) s.message) s.kind

/-- The outcome of ENCODE (45_engine.md R213, R214). -/
def encodeOutcome (s : State) : CmdOutcome :=
  if !s.msglenOk then .error .badOperand
  else if !s.geomOk then .error .badOperand
  else if !privOk s.priv then .error .invalidKeyRange
  else if !pubOk s.pub then .error .invalidKeyRange
  else if frameLen s.msglen.toNat > s.cap then .error (.insufficientCapacity (frameLen s.msglen.toNat) s.cap)
  else .ok (s.withPix (embedBits s.cpp s.pix s.encodedFrame))

/-- ENCODE (45_engine.md R213). -/
def execEncode (s : State) : Host.Outcome State Fault Refusal := completion s (encodeOutcome s)

/-- The pair is consistent: `PUB = MODPOW(G, PRIV, P)` (41_keyagreement.md R148, 45_engine.md R219). -/
def pairOk (priv pub : Word) : Bool := pub.toNat == derivePublic priv

/-- The outcome of DECODE (45_engine.md R217). -/
def decodeOutcome (s : State) : CmdOutcome :=
  if !s.geomOk then .error .badOperand
  else if !privOk s.priv then .error .invalidKeyRange
  else if !pubOk s.pub then .error .invalidKeyRange
  else if !pairOk s.priv s.pub then .error .malformedFrame
  else
    match unframeBits (extractBits s.cpp s.pix s.cap) with
    | none => .error .malformedFrame
    | some (c, k) => .ok (s.withMessage (transform (deriveSecret s.priv s.pub) c) k)

/-- DECODE (45_engine.md R217). -/
def execDecode (s : State) : Host.Outcome State Fault Refusal := completion s (decodeOutcome s)

end Sys2Proof.Machine
end

