-- ==== Sys2Proof/Machine/KeyAgreement.lean ====
section
/-! DEFINITION. The KeyAgreement family: DPUB and DSEC (41_keyagreement.md). -/

namespace Sys2Proof.Machine

/-- The outcome of DPUB (41_keyagreement.md R143). -/
def dpubOutcome (s : State) : CmdOutcome :=
  if privOk s.priv then .ok (s.withPub (BitVec.ofNat 32 (derivePublic s.priv)))
  else .error .invalidKeyRange

/-- DPUB (41_keyagreement.md R143). -/
def execDpub (s : State) : Host.Outcome State Fault Refusal := completion s (dpubOutcome s)

/-- The outcome of DSEC (41_keyagreement.md R145). -/
def dsecOutcome (s : State) : CmdOutcome :=
  if !privOk s.priv then .error .invalidKeyRange
  else if !pubOk s.pub then .error .invalidKeyRange
  else .ok (s.withSecret (BitVec.ofNat 32 (deriveSecret s.priv s.pub)))

/-- DSEC (41_keyagreement.md R145). -/
def execDsec (s : State) : Host.Outcome State Fault Refusal := completion s (dsecOutcome s)

end Sys2Proof.Machine
end

