-- ==== Sys2Proof/Machine/KeyedCipher.lean ====
section
/-! DEFINITION. The KeyedCipher family: XFORM (42_keyedcipher.md). -/

namespace Sys2Proof.Machine

/-- The outcome of XFORM (42_keyedcipher.md R163). -/
def xformOutcome (s : State) : CmdOutcome :=
  if !s.msglenOk then .error .badOperand
  else if !secretOk s.secret then .error .badOperand
  else .ok (s.withMsg (writeBytes s.msg 0 (transform s.secret.toNat s.message)))

/-- XFORM (42_keyedcipher.md R163). -/
def execXform (s : State) : Host.Outcome State Fault Refusal := completion s (xformOutcome s)

end Sys2Proof.Machine
end

