-- ==== Sys2Proof/Machine/StegoCodec.lean ====
section
/-! DEFINITION. The StegoCodec family: EMBED and EXTRACT (44_stegocodec.md). -/

namespace Sys2Proof.Machine

/-- The outcome of EMBED (44_stegocodec.md R191, R192). -/
def embedOutcome (s : State) : CmdOutcome :=
  if !s.bitlenOk then .error .badOperand
  else if !s.geomOk then .error .badOperand
  else if s.bitlen.toNat > s.cap then .error (.insufficientCapacity s.bitlen.toNat s.cap)
  else .ok (s.withPix (embedBits s.cpp s.pix s.stream))

/-- EMBED (44_stegocodec.md R191). -/
def execEmbed (s : State) : Host.Outcome State Fault Refusal := completion s (embedOutcome s)

/-- The number of bits EXTRACT reads: `min(MAXBITS, CAP)` (44_stegocodec.md R198). -/
def State.extractLen (s : State) : Nat := min s.maxbits.toNat s.cap

/-- The outcome of EXTRACT (44_stegocodec.md R197). -/
def extractOutcome (s : State) : CmdOutcome :=
  if !s.geomOk then .error .badOperand
  else .ok (s.withStream (extractBits s.cpp s.pix s.extractLen))

/-- EXTRACT (44_stegocodec.md R197). -/
def execExtract (s : State) : Host.Outcome State Fault Refusal := completion s (extractOutcome s)

end Sys2Proof.Machine
end

