-- ==== Sys2Proof/Machine/Schedule.lean ====
section
/-! DEFINITION. Which agent moves next and what it does: the host's coming events first to last, and the engine
whenever nothing comes before it (00_scope.md R10, 40_command_protocol.md R125, 70_reset_and_hazards.md R282; log
entries 1 and 11). -/

namespace Sys2Proof.Machine

/-- The engine's turn: while busy its completion step, by the latched word (40_command_protocol.md R123, R124); while
idle it does nothing (60_exceptions.md R251). -/
def engineStep (s : State) : Host.Outcome State Fault Refusal :=
  if s.busy then
    match decode (fetchWord s) with
    | .ok i => exec i s
    | .error _ => execIllegal s
  else .next s

/-- What an event does. -/
def eventStep (s : State) : Event → Host.Outcome State Fault Refusal
  | .bus t => .next (busStep s t)
  | .engine => engineStep s
  | .hwReset => .next (hardwareReset s)

/-- One step: the first coming event, taken off the agenda; with none coming, the engine's turn. -/
def nextStep (s : State) : Host.Outcome State Fault Refusal :=
  match s.agenda with
  | [] => engineStep s
  | e :: rest => eventStep (s.withAgenda rest) e

end Sys2Proof.Machine
end

