-- ==== Sys2Proof/Machine/Step.lean ====
section
/-! DEFINITION. The step of the machine, and how one command word is placed where the next step runs it. -/

namespace Sys2Proof.Machine

/-- One atomic step of one of the two agents (00_scope.md R10, 20_memory.md R75). -/
def step (s : State) : Host.Outcome State Fault Refusal := nextStep s

/-- The state with an opcode-table word issued (40_command_protocol.md R121) and the engine's turn next, so that the
very next step completes it (log entry 7). -/
def State.withFetchWord (s : State) (nbits w : Nat) : State := placeWord s (tableWord nbits w)

end Sys2Proof.Machine
end

