-- ==== Sys2Proof/Machine/HostProgram.lean ====
section
/-! DEFINITION. The notation of host programs and its expansion to bus transactions (30_encoding.md R110, R111). -/

namespace Sys2Proof.Machine

/-- `RegWrite(offset(reg), v)`, encoded (W32, offset, v). -/
def writeTx (r : Reg) (v : Word) : BusTx := .write 32 (regOffset r) v.toNat

/-- `RegRead(offset(reg))`, encoded (R32, offset, -). -/
def readTx (r : Reg) : BusTx := .read 32 (regOffset r)

/-- `BufWrite` at byte `i` of a buffer, encoded (W8, base + i, b). -/
def bufWriteTx (sp : BufId) (i : Nat) (b : Byte) : BusTx := .write 8 (bufBase sp + i) b.toNat

/-- `BufRead` at byte `i` of a buffer, encoded (R8, base + i, -). -/
def bufReadTx (sp : BufId) (i : Nat) : BusTx := .read 8 (bufBase sp + i)

/-- `WRB SPACE[i], b0 ; WRB SPACE[i+1], b1 ; …`. -/
def loadTxs (sp : BufId) (i : Nat) : List Byte → List Event
  | [] => []
  | b :: bs => .bus (bufWriteTx sp i b) :: loadTxs sp (i + 1) bs

/-- `WAIT`: so many reads of STATUS that find BUSY set, the engine's completion, and the read that finds it clear. -/
def waitEvents (polls : Nat) : List Event :=
  List.replicate polls (.bus (readTx .status)) ++ [.engine, .bus (readTx .status)]

/-- The events a statement stands for (30_encoding.md R110, R111). -/
def expand : Stmt → List Event
  | .wr r v => [.bus (writeTx r v)]
  | .rd r => [.bus (readTx r)]
  | .wrb sp i b => [.bus (bufWriteTx sp i b)]
  | .rdb sp i => [.bus (bufReadTx sp i)]
  | .cmd c => [.bus (writeTx .cmd (encode c))]
  | .wait polls => waitEvents polls
  | .run c polls => .bus (writeTx .cmd (encode c)) :: waitEvents polls
  | .clrdone => [.bus (writeTx .status 0x00000002)]
  | .srst => [.bus (writeTx .ctrl 0x00000002)]
  | .img w h alpha =>
    [.bus (writeTx .imgdim (BitVec.ofNat 32 (h.toNat * 65536 + w.toNat))), .bus (writeTx .imgcfg alpha)]
  | .ldmsg bytes => loadTxs .msg 0 bytes ++ [.bus (writeTx .msglen (BitVec.ofNat 32 bytes.length))]
  | .ldpix bytes => loadTxs .pix 0 bytes
  | .ldbits bytes len => loadTxs .bits 0 bytes ++ [.bus (writeTx .bitlen len)]

/-- The agenda of a host program (30_encoding.md R110). -/
def program (p : List Stmt) : List Event := p.flatMap expand

end Sys2Proof.Machine
end

