-- ==== Sys2Proof/Safety.lean ====
section
/-! DEFINITION. The terms claims are made in: the invariant of the block, when a run is over, and what a command may
read and write. -/

namespace Sys2Proof.Machine

/-- The three buffers are in canonical form and hold no byte outside themselves (10_state.md R44; log entry 3). -/
def State.memWf (s : State) : Bool :=
  s.msg.wf (bufSize .msg) && s.bits.wf (bufSize .bits) && s.pix.wf (bufSize .pix)

/-- `BUSY` and `DONE` are never both 1, and `ERR` is clear while busy (10_state.md R36, 40_command_protocol.md R121). -/
def State.statusWf (s : State) : Bool :=
  !(s.busy && s.done) && (!s.busy || s.err == .ok)

/-- `REQBITS` and `AVAILBITS` are 0 unless the code is InsufficientCapacity, and then within their bounds (10_state.md
R38). -/
def State.detailWf (s : State) : Bool :=
  (s.err == .insufficientCapacity || (s.reqbits == 0 && s.availbits == 0)) &&
    s.reqbits.toNat ≤ hw.bitsBits && s.availbits.toNat ≤ hw.pixBytes

/-- The invariant of the block. -/
def State.Inv (s : State) : Prop := s.memWf = true ∧ s.statusWf = true ∧ s.detailWf = true

/-- A host program's run is over: no statement is left and the block is idle (40_command_protocol.md R133). -/
def State.runOver (s : State) : Prop := s.agenda = [] ∧ s.busy = false

/-- The outcome of a command, a function of the command and its operands alone (40_command_protocol.md R123). -/
def outcome (s : State) : Instr → CmdOutcome
  | .dpub => dpubOutcome s
  | .dsec => dsecOutcome s
  | .xform => xformOutcome s
  | .frame => frameOutcome s
  | .unframe => unframeOutcome s
  | .embed => embedOutcome s
  | .extract => extractOutcome s
  | .encode => encodeOutcome s
  | .decode => decodeOutcome s

/-- The completion codes a command can end with (60_exceptions.md R238). -/
def possibleCodes : Instr → List CompletionCode
  | .dpub => [.ok, .invalidKeyRange]
  | .dsec => [.ok, .invalidKeyRange]
  | .xform => [.ok, .badOperand]
  | .frame => [.ok, .badOperand]
  | .unframe => [.ok, .malformedFrame, .badOperand]
  | .embed => [.ok, .insufficientCapacity, .badOperand]
  | .extract => [.ok, .badOperand]
  | .encode => [.ok, .invalidKeyRange, .insufficientCapacity, .badOperand]
  | .decode => [.ok, .invalidKeyRange, .malformedFrame, .badOperand]

/-- The code of the first command of a sequence that fails, OK if none does (45_engine.md R215, R220). -/
def firstError : List CompletionCode → CompletionCode
  | [] => .ok
  | c :: cs => if c = .ok then firstError cs else c

/-- Two states hold the same message, of `n` bytes. -/
def sameMessage (n : Nat) (s s' : State) : Prop := ∀ j < n, readByte .msg s.msg j = readByte .msg s'.msg j

/-- Two states hold the same PIX bytes at the first `n` positions. -/
def sameCarrier (n : Nat) (s s' : State) : Prop :=
  ∀ k < n, readByte .pix s.pix (pos s.cpp k) = readByte .pix s'.pix (pos s.cpp k)

/-- Two states hold the same image geometry. -/
def sameGeometry (s s' : State) : Prop := s.imgdim = s'.imgdim ∧ s.alpha = s'.alpha

/-- Two states agree on the "reads" set of a command (10_state.md R29). -/
def readsAgree (s s' : State) : Instr → Prop
  | .dpub => s.priv = s'.priv
  | .dsec => s.priv = s'.priv ∧ s.pub = s'.pub
  | .xform => s.secret = s'.secret ∧ s.msglen = s'.msglen ∧ sameMessage s.msglen.toNat s s'
  | .frame => s.msglen = s'.msglen ∧ s.kind = s'.kind ∧ sameMessage s.msglen.toNat s s'
  | .unframe => s.bitlen = s'.bitlen ∧ ∀ k < s.bitlen.toNat, bitRead s.bits k = bitRead s'.bits k
  | .embed => s.bitlen = s'.bitlen ∧ (∀ k < s.bitlen.toNat, bitRead s.bits k = bitRead s'.bits k) ∧
      sameGeometry s s' ∧ sameCarrier s.bitlen.toNat s s'
  | .extract => s.maxbits = s'.maxbits ∧ sameGeometry s s' ∧
      ∀ k < min s.maxbits.toNat s.cap, lsbAt s.cpp s.pix k = lsbAt s.cpp s'.pix k
  | .encode => s.priv = s'.priv ∧ s.pub = s'.pub ∧ s.kind = s'.kind ∧ s.msglen = s'.msglen ∧
      sameMessage s.msglen.toNat s s' ∧ sameGeometry s s' ∧ sameCarrier (33 + 8 * s.msglen.toNat) s s'
  | .decode => s.priv = s'.priv ∧ s.pub = s'.pub ∧ sameGeometry s s' ∧
      ∀ k < s.cap, lsbAt s.cpp s.pix k = lsbAt s.cpp s'.pix k

/-- Two states agree on the "writes on OK" set of a command issued in state `s` (10_state.md R29). -/
def writesAgree (s t t' : State) : Instr → Prop
  | .dpub => t.pub = t'.pub
  | .dsec => t.secret = t'.secret
  | .xform => sameMessage s.msglen.toNat t t'
  | .frame => t.bitlen = t'.bitlen ∧
      ∀ a < (33 + 8 * s.msglen.toNat + 7) / 8, readByte .bits t.bits a = readByte .bits t'.bits a
  | .unframe => t.kind = t'.kind ∧ t.msglen = t'.msglen ∧ sameMessage t.msglen.toNat t t'
  | .embed => sameCarrier s.bitlen.toNat t t'
  | .extract => t.bitlen = t'.bitlen ∧
      ∀ a < (min s.maxbits.toNat s.cap + 7) / 8, readByte .bits t.bits a = readByte .bits t'.bits a
  | .encode => sameCarrier (33 + 8 * s.msglen.toNat) t t'
  | .decode => t.kind = t'.kind ∧ t.msglen = t'.msglen ∧ sameMessage t.msglen.toNat t t'

end Sys2Proof.Machine
end

