-- ==== Sys2Proof/Certificates/Slice0/Obligations.lean ====
section
/-! DEFINITION. The statements for the provers. Registers and bytes are spoken of through the model's own reads; sizes,
offsets and codes are written as the numbers of spec/. -/

open Sys2Proof Sys2Proof.Machine

/-! ### Encoding -/

/-- 30_encoding.md R92: the nine words of the opcode map, written out. -/
def Obligations.OpcodeMapWordsDecode : Prop :=
  decode 0x00000001 = .ok .dpub ∧ decode 0x00000002 = .ok .dsec ∧ decode 0x00000003 = .ok .xform ∧
  decode 0x00000004 = .ok .frame ∧ decode 0x00000005 = .ok .unframe ∧ decode 0x00000006 = .ok .embed ∧
  decode 0x00000007 = .ok .extract ∧ decode 0x00000008 = .ok .encode ∧ decode 0x00000009 = .ok .decode

/-- 30_encoding.md R91, R93: decoding and encoding agree in both directions, and exactly the words 1 to 9 of all 2^32
are accepted. -/
def Obligations.DecodeAcceptsExactlyTheNineWords : Prop :=
  (∀ i, decode (encode i) = .ok i) ∧ (∀ w i, decode w = .ok i → w = encode i) ∧
  ∀ w, (∃ i, decode w = .ok i) ↔ 1 ≤ w.toNat ∧ w.toNat ≤ 9

/-- 40_command_protocol.md R123, R124: the engine's step of a busy block is `exec` of the command in flight. What the
step adds is the agenda, the model's own (log entry 1): an `engine` event is taken off it first. -/
def Obligations.StepRunsTheCommandInFlight : Prop :=
  ∀ s i, s.busy = true → decode s.cmd = .ok i →
    (s.agenda = [] → step s = exec i s) ∧
    ∀ rest, s.agenda = .engine :: rest → step s = exec i { s with agenda := rest }

/-- A command word placed by `withFetchWord` is issued (R121) and run by the very next step (log entry 7). -/
def Obligations.PlacedWordRunsNext : Prop :=
  ∀ s i, step (s.withFetchWord 32 (encode i).toNat) = exec i (issue s (encode i))

/-! ### Reset -/

/-- 10_state.md R50: what every register reads as after a hardware reset, and the interrupt line; the block is idle. -/
def Obligations.ResetRegisterValues : Prop :=
  (∀ r ∈ [Reg.ctrl, .status, .cmd, .reqbits, .availbits, .priv, .pub, .secret, .kind, .msglen, .bitlen, .maxbits,
      .imgdim, .imgcfg], readReg State.reset r = 0) ∧
  readReg State.reset .id = 0x53544547 ∧ readReg State.reset .version = 1 ∧ readReg State.reset .gparam = 9 ∧
  readReg State.reset .pparam = 23 ∧ readReg State.reset .pixsz = 262144 ∧ readReg State.reset .msgsz = 32768 ∧
  readReg State.reset .bitsz = 262177 ∧ State.reset.irq = false ∧ State.reset.busy = false

/-- 10_state.md R36, R38, R50: the invariant holds after reset. The canonical form of the buffers' lists of written bytes,
part of the invariant, is the model's own (log entry 3). -/
def Obligations.ResetMeetsInvariant : Prop := State.reset.Inv

/-- 70_reset_and_hazards.md R263 (a), (b), for an idle block: every register reset, IE included, every buffer byte kept;
the model's own agenda is kept and its reply noted (log entries 1 and 2). -/
def Obligations.SoftResetWhenIdleKeepsBuffers : Prop :=
  ∀ (s : State) (v : Word), s.busy = false → v[1] = true →
    busStep s (.write 32 0x008 v.toNat) =
      { State.reset with msg := s.msg, bits := s.bits, pix := s.pix, agenda := s.agenda, reply := some .written }

/-- 70_reset_and_hazards.md R263 (a), (c), for a busy block: every register reset and no completion, and of the buffers
only the one the abandoned command writes may change, none for DPUB, DSEC or an illegal word. That the whole of that
buffer becomes a fresh free value is the model's choice (log entry 4). -/
def Obligations.SoftResetWhenBusyAbandonsTheCommand : Prop :=
  ∀ (s : State) (v : Word), s.busy = true → v[1] = true →
    ∃ t, busStep s (.write 32 0x008 v.toNat) = t ∧
      (∀ r, readReg t r = readReg State.reset r) ∧ t.busy = false ∧ t.done = false ∧ t.agenda = s.agenda ∧
      t.reply = some .written ∧
      (t.msg ≠ s.msg → s.cmd = 3 ∨ s.cmd = 5 ∨ s.cmd = 9) ∧
      (t.bits ≠ s.bits → s.cmd = 4 ∨ s.cmd = 7) ∧
      (t.pix ≠ s.pix → s.cmd = 6 ∨ s.cmd = 8) ∧
      (s.cmd = 3 ∨ s.cmd = 5 ∨ s.cmd = 9 → ∀ a, readByte .msg t.msg a = Config.freeByte .msg (s.msg.epoch + 1) a) ∧
      (s.cmd = 4 ∨ s.cmd = 7 → ∀ a, readByte .bits t.bits a = Config.freeByte .bits (s.bits.epoch + 1) a) ∧
      (s.cmd = 6 ∨ s.cmd = 8 → ∀ a, readByte .pix t.pix a = Config.freeByte .pix (s.pix.epoch + 1) a)

/-- 70_reset_and_hazards.md R260: a hardware reset, idle or busy: every register reset, no completion, irq low, and
every byte of every buffer a free value of a fresh epoch (log entries 5 and 6). -/
def Obligations.HardwareResetForgetsEverything : Prop :=
  ∀ s rest, s.agenda = .hwReset :: rest →
    ∃ t, step s = .next t ∧ (∀ r, readReg t r = readReg State.reset r) ∧ t.busy = false ∧ t.irq = false ∧
      t.agenda = rest ∧
      ∀ sp a, readByte sp (t.buf sp) a = Config.freeByte sp ((s.buf sp).epoch + 1) a

/-! ### The port -/

/-- 40_command_protocol.md R121: issue on an idle block, of any word, changes the six things listed and nothing else,
and drops the interrupt. (`reply` is the model's note that the write ended ok, log entry 2.) -/
def Obligations.IssueLatchesAnyWord : Prop :=
  ∀ (s : State) (w : Word), s.busy = false →
    busStep s (.write 32 0x010 w.toNat) =
      { s with cmd := w, busy := true, done := false, err := .ok, reqbits := 0, availbits := 0,
               reply := some .written } ∧
    (busStep s (.write 32 0x010 w.toNat)).irq = false

/-- 20_memory.md R63, R242: a transaction that ends in an error changes no state of the block
(`reply` is the model's note of it, log entry 2). -/
def Obligations.BusErrorChangesNothing : Prop :=
  ∀ s t, (busStep s t).reply = some .error → busStep s t = { s with reply := some .error }

/-- 20_memory.md R63: the reads that end in an error are exactly those not listed here. -/
def Obligations.ReadErrorsAreExactly : Prop :=
  ∀ s bits a, (busStep s (.read bits a)).reply = some .error ↔
    ¬((bits = 32 ∧ a ∈ [0x000, 0x004, 0x008, 0x00C, 0x010, 0x014, 0x018, 0x020, 0x024, 0x028, 0x02C, 0x030, 0x040,
          0x044, 0x048, 0x04C, 0x050, 0x054, 0x058, 0x05C, 0x060]) ∨
      (bits = 8 ∧ s.busy = false ∧ ((0x10000 ≤ a ∧ a ≤ 0x17FFF) ∨ (0x20000 ≤ a ∧ a ≤ 0x28004) ∨
          (0x40000 ≤ a ∧ a ≤ 0x7FFFF))))

/-- 20_memory.md R63, 10_state.md R39, 40_command_protocol.md R126: the writes that end in an error are exactly those
not listed here. -/
def Obligations.WriteErrorsAreExactly : Prop :=
  ∀ s bits a data, (busStep s (.write bits a data)).reply = some .error ↔
    ¬((bits = 32 ∧ a = 0x008) ∨
      (bits = 32 ∧ s.busy = false ∧ a ∈ [0x00C, 0x010, 0x040, 0x044, 0x048, 0x04C, 0x050, 0x054, 0x058, 0x05C,
          0x060]) ∨
      (bits = 8 ∧ s.busy = false ∧ ((0x10000 ≤ a ∧ a ≤ 0x17FFF) ∨ (0x20000 ≤ a ∧ a ≤ 0x28004) ∨
          (0x40000 ≤ a ∧ a ≤ 0x7FFFF))))

/-- 20_memory.md R62, R65, R66, R75, 40_command_protocol.md R126, 10_state.md R20 to R38: a read of any kind changes nothing
(but the port's reply, log entry 2). A register read answers the register, idle or busy, at the offsets written out here;
STATUS is BUSY in bit 0, DONE in bit 1, the number of the code (60_exceptions.md R230) in bits 7:4 and 0 elsewhere, so it
reads 1 while busy in every state of the invariant (whose canonical form is the model's own, log entry 3). A byte read of
an idle block answers the byte the engine reads there. -/
def Obligations.ReadsChangeNothing : Prop :=
  (∀ s bits a, ∃ r, busStep s (.read bits a) = { s with reply := some r }) ∧
  (∀ s r, (busStep s (.read 32 (regOffset r))).reply = some (.word (readReg s r))) ∧
  (∀ (s : State) (a : Nat) (v : Word), (a, v) ∈ [((0x008 : Nat), if s.ie then (1 : Word) else 0),
      (0x00C, readReg s .status), (0x010, s.cmd), (0x014, s.reqbits), (0x018, s.availbits), (0x040, s.priv),
      (0x044, s.pub), (0x048, s.secret), (0x04C, if s.kind = .binary then 1 else 0), (0x050, s.msglen),
      (0x054, s.bitlen), (0x058, s.maxbits), (0x05C, s.imgdim), (0x060, if s.alpha then 1 else 0)] →
    busStep s (.read 32 a) = { s with reply := some (.word v) }) ∧
  (∀ s : State, (readReg s .status).getLsbD 0 = s.busy ∧ (readReg s .status).getLsbD 1 = s.done ∧
    (∀ c n, (c, n) ∈ [(CompletionCode.ok, (0 : BitVec 4)), (.invalidKeyRange, 1), (.insufficientCapacity, 2),
        (.malformedFrame, 3), (.illegalCommand, 4), (.badOperand, 5)] →
      s.err = c → (readReg s .status).extractLsb' 4 4 = n) ∧
    (readReg s .status).extractLsb' 2 2 = 0 ∧ (readReg s .status).extractLsb' 8 24 = 0 ∧
    (s.Inv → s.busy = true → readReg s .status = 1)) ∧
  ∀ s : State, s.busy = false →
    (∀ i < 32768, busStep s (.read 8 (0x10000 + i)) = { s with reply := some (.byte (readByte .msg s.msg i)) }) ∧
    (∀ i < 32773, busStep s (.read 8 (0x20000 + i)) = { s with reply := some (.byte (readByte .bits s.bits i)) }) ∧
    ∀ i < 262144, busStep s (.read 8 (0x40000 + i)) = { s with reply := some (.byte (readByte .pix s.pix i)) }

/-- 10_state.md R32, R33, R34: the constant registers read as their constants in every state, and a write to one ends
in an error and changes nothing. -/
def Obligations.ConstantRegistersNeverChange : Prop :=
  ∀ s (a : Nat) (v : Word), (a, v) ∈ [((0x000 : Nat), (0x53544547 : Word)), (0x004, 1), (0x020, 9), (0x024, 23),
      (0x028, 262144), (0x02C, 32768), (0x030, 262177)] →
    busStep s (.read 32 a) = { s with reply := some (.word v) } ∧
    ∀ data, busStep s (.write 32 a data) = { s with reply := some .error }

/-- 10_state.md R21 to R31, R39, 20_memory.md R66: a write to an operand register of an idle block replaces that
register and nothing else; the register then reads as the word written, of KIND and IMGCFG only bit 0. -/
def Obligations.OperandWriteReplacesTheRegister : Prop :=
  ∀ (s : State) (v : Word), s.busy = false →
    busStep s (.write 32 0x040 v.toNat) = { s with priv := v, reply := some .written } ∧
    busStep s (.write 32 0x044 v.toNat) = { s with pub := v, reply := some .written } ∧
    busStep s (.write 32 0x048 v.toNat) = { s with secret := v, reply := some .written } ∧
    busStep s (.write 32 0x04C v.toNat) = { s with kind := Kind.ofBit (v[0]), reply := some .written } ∧
    busStep s (.write 32 0x050 v.toNat) = { s with msglen := v, reply := some .written } ∧
    busStep s (.write 32 0x054 v.toNat) = { s with bitlen := v, reply := some .written } ∧
    busStep s (.write 32 0x058 v.toNat) = { s with maxbits := v, reply := some .written } ∧
    busStep s (.write 32 0x05C v.toNat) = { s with imgdim := v, reply := some .written } ∧
    busStep s (.write 32 0x060 v.toNat) = { s with alpha := v[0], reply := some .written } ∧
    (∀ r ∈ [Reg.priv, .pub, .secret, .msglen, .bitlen, .maxbits, .imgdim],
      readReg (busStep s (.write 32 (regOffset r) v.toNat)) r = v) ∧
    ∀ r ∈ [Reg.kind, .imgcfg], readReg (busStep s (.write 32 (regOffset r) v.toNat)) r = v &&& 1

/-- 10_state.md R35: a write to CTRL without SRST sets IE to bit 0 and nothing else, idle or busy; CTRL then reads IE in
bit 0 and 0 elsewhere. -/
def Obligations.CtrlWriteSetsInterruptEnable : Prop :=
  ∀ (s : State) (v : Word), v[1] = false →
    busStep s (.write 32 0x008 v.toNat) = { s with ie := v[0], reply := some .written } ∧
    readReg (busStep s (.write 32 0x008 v.toNat)) .ctrl = v &&& 1

/-- 40_command_protocol.md R130: a write to STATUS of an idle block with bit 1 set clears DONE and lowers irq and
changes nothing else, ERR, REQBITS and AVAILBITS among the rest, so that STATUS then reads 16 times the number of the
code (60_exceptions.md R230); one with bit 1 clear changes nothing. `reply` is the model's own (log entry 2). -/
def Obligations.ClearDoneClearsOnlyDone : Prop :=
  ∀ (s : State) (v : Word), s.busy = false →
    (v[1] = true →
      busStep s (.write 32 0x00C v.toNat) = { s with done := false, reply := some .written } ∧
      (busStep s (.write 32 0x00C v.toNat)).irq = false ∧
      ∀ c n, (c, n) ∈ [(CompletionCode.ok, (0x00 : Word)), (.invalidKeyRange, 0x10), (.insufficientCapacity, 0x20),
          (.malformedFrame, 0x30), (.illegalCommand, 0x40), (.badOperand, 0x50)] →
        s.err = c → readReg (busStep s (.write 32 0x00C v.toNat)) .status = n) ∧
    (v[1] = false → busStep s (.write 32 0x00C v.toNat) = { s with reply := some .written })

/-- 20_memory.md R65, R66, R61: a byte written through the port to an idle block is the byte the port then reads there;
R75 (a): it is also the byte the engine reads there. Every other byte of every buffer reads as before and no register
changes. `reply` is the model's own (log entry 2). -/
def Obligations.BufferByteWriteReadsBack : Prop :=
  ∀ s sp i (b : Byte), s.busy = false → i < bufSize sp →
    ∃ t, busStep s (.write 8 (bufBase sp + i) b.toNat) = t ∧ t.reply = some .written ∧
      (busStep t (.read 8 (bufBase sp + i))).reply = some (.byte b) ∧ readByte sp (t.buf sp) i = b ∧
      (∀ sp' j, ¬(sp' = sp ∧ j = i) → readByte sp' (t.buf sp') j = readByte sp' (s.buf sp') j) ∧
      t = { s with msg := t.msg, bits := t.bits, pix := t.pix, reply := t.reply }

/-- 20_memory.md R73, 40_command_protocol.md R126: while busy every host access to a buffer and every register write
but to CTRL ends in an error and changes nothing. -/
def Obligations.BusyBlockRefusesTheHost : Prop :=
  ∀ s, s.busy = true →
    (∀ sp i (b : Byte), i < bufSize sp →
      busStep s (.read 8 (bufBase sp + i)) = { s with reply := some .error } ∧
      busStep s (.write 8 (bufBase sp + i) b.toNat) = { s with reply := some .error }) ∧
    ∀ r (v : Word), r ≠ .ctrl → busStep s (.write 32 (regOffset r) v.toNat) = { s with reply := some .error }

/-- 60_exceptions.md R230, R240: irq is up after every completion exactly when IE is 1, whatever the code; STATUS in the
same step (R246) reads DONE = 1, BUSY = 0 and the number of the code in bits 7:4, the six numbers written out. -/
def Obligations.CompletionRaisesTheInterrupt : Prop :=
  ∀ i s, ∃ t, exec i s = .next t ∧ t.irq = s.ie ∧ t.busy = false ∧ t.done = true ∧
    ∀ c v, (c, v) ∈ [(CompletionCode.ok, (0x02 : Word)), (.invalidKeyRange, 0x12), (.insufficientCapacity, 0x22),
        (.malformedFrame, 0x32), (.illegalCommand, 0x42), (.badOperand, 0x52)] →
      t.err = c → readReg t .status = v

/-! ### KeyAgreement -/

/-- 41_keyagreement.md R143: DPUB with a private key in 1 to 22 completes OK with PUB = 9^PRIV mod 23; nothing else
changes but the completion registers. -/
def Obligations.DpubDerivesThePublicKey : Prop :=
  ∀ s : State, 1 ≤ s.priv.toNat → s.priv.toNat ≤ 22 →
    exec .dpub s = .next { s with pub := BitVec.ofNat 32 (9 ^ s.priv.toNat % 23), err := .ok, reqbits := 0,
                                  availbits := 0, busy := false, done := true }

/-- 41_keyagreement.md R146: the function table of DPUB. -/
def Obligations.DpubFunctionTable : Prop :=
  ∀ (s : State) (p q : Word), (p, q) ∈ [((1 : Word), (9 : Word)), (2, 12), (3, 16), (4, 6), (5, 8), (6, 3), (7, 4),
      (8, 13), (9, 2), (10, 18), (11, 1), (12, 9), (13, 12), (14, 16), (15, 6), (16, 8), (17, 3), (18, 4), (19, 13),
      (20, 2), (21, 18), (22, 1)] → s.priv = p →
    ∃ t, exec .dpub s = .next t ∧ t.err = .ok ∧ t.pub = q

/-- 41_keyagreement.md R145, R147: DSEC with both keys in range completes OK with SECRET = PUB^PRIV mod 23, PUB = 0
included, whose secret is 0; nothing else changes but the completion registers. -/
def Obligations.DsecDerivesTheSecret : Prop :=
  ∀ s : State, 1 ≤ s.priv.toNat → s.priv.toNat ≤ 22 → s.pub.toNat ≤ 22 →
    exec .dsec s = .next { s with secret := BitVec.ofNat 32 (s.pub.toNat ^ s.priv.toNat % 23), err := .ok,
                                  reqbits := 0, availbits := 0, busy := false, done := true } ∧
    (s.pub = 0 → ∃ t, exec .dsec s = .next t ∧ t.secret = 0)

/-- 41_keyagreement.md R148: DPUB and then DSEC leave the consistent pair of PRIV and its secret, which is
9^(PRIV^2) mod 23 and one of 1, 2, 6, 8, 9, 16; and PRIV + 11 gives the public key and the secret of PRIV. -/
def Obligations.ConsistentPairsShareSixSecrets : Prop :=
  ∀ s : State, 1 ≤ s.priv.toNat → s.priv.toNat ≤ 22 →
    (∃ t u, exec .dpub s = .next t ∧ exec .dsec t = .next u ∧ u.err = .ok ∧ u.pub = t.pub ∧
      u.secret.toNat = 9 ^ s.priv.toNat ^ 2 % 23 ∧ u.secret.toNat ∈ [1, 2, 6, 8, 9, 16]) ∧
    ∀ s' : State, s'.priv.toNat = s.priv.toNat + 11 → s'.priv.toNat ≤ 22 →
      ∃ t u t' u', exec .dpub s = .next t ∧ exec .dsec t = .next u ∧ exec .dpub s' = .next t' ∧
        exec .dsec t' = .next u' ∧ u'.pub = u.pub ∧ u'.secret = u.secret

/-- 41_keyagreement.md R143, R144, R145: DPUB with PRIV out of range, and DSEC with PRIV or PUB out of range, complete
with InvalidKeyRange and change only the completion registers. The comparison is of the whole 32-bit words. -/
def Obligations.KeysOutOfRangeAreRefused : Prop :=
  ∀ s : State,
    (s.priv.toNat = 0 ∨ 23 ≤ s.priv.toNat →
      exec .dpub s = .next { s with err := .invalidKeyRange, reqbits := 0, availbits := 0, busy := false,
                                    done := true }) ∧
    (s.priv.toNat = 0 ∨ 23 ≤ s.priv.toNat ∨ 23 ≤ s.pub.toNat →
      exec .dsec s = .next { s with err := .invalidKeyRange, reqbits := 0, availbits := 0, busy := false,
                                    done := true })

/-- 41_keyagreement.md R141: square-and-multiply equals the remainder of the power, for all inputs with `m >= 2`. -/
def Obligations.SquareAndMultiplyIsModpow : Prop :=
  ∀ b e m, 2 ≤ m → modpowFast b e m = b ^ e % m

/-! ### KeyedCipher -/

/-- 42_keyedcipher.md R163: XFORM with a message that fits MSG and a secret in 0 to 22 completes OK; each message byte
`i` is xored with (SECRET + i) mod 256, every other byte of MSG reads as before, and nothing else changes but the
completion registers. -/
def Obligations.XformCiphersTheMessage : Prop :=
  ∀ s : State, s.msglen.toNat ≤ 32768 → s.secret.toNat ≤ 22 →
    ∃ b, exec .xform s = .next { s with msg := b, err := .ok, reqbits := 0, availbits := 0, busy := false,
                                        done := true } ∧
      (∀ i < s.msglen.toNat,
        readByte .msg b i = readByte .msg s.msg i ^^^ BitVec.ofNat 8 ((s.secret.toNat + i) % 256)) ∧
      ∀ a, s.msglen.toNat ≤ a → readByte .msg b a = readByte .msg s.msg a

/-- 42_keyedcipher.md R164: the transform is its own inverse and keeps the length, for every keystream function. -/
def Obligations.TransformIsInvolutive : Prop :=
  ∀ ks s b, transformWith ks s (transformWith ks s b) = b ∧ (transformWith ks s b).length = b.length

/-- 42_keyedcipher.md R165 (a): under two different secrets in 0 to 22 the same bytes transform to bytes that differ at
every position. -/
def Obligations.DifferentSecretsDifferInEveryByte : Prop :=
  ∀ s s' (b : List Byte), s ≤ 22 → s' ≤ 22 → s ≠ s' →
    ∀ i (h : i < (transform s b).length) (h' : i < (transform s' b).length), (transform s b)[i] ≠ (transform s' b)[i]

/-! ### BitPacker -/

/-- 43_bitpacker.md R170, R172, 20_memory.md R70: FRAME of a message that fits MSG completes OK: BITLEN is 33 + 8 *
MSGLEN, and BITS holds the length most significant bit first, the Kind bit, the payload, and 0 in the unused bits of
the last byte touched; every later byte reads as before and nothing else changes but the completion registers. -/
def Obligations.FrameWritesTheFrame : Prop :=
  ∀ s : State, s.msglen.toNat ≤ 32768 →
    ∃ b, exec .frame s = .next { s with bits := b, bitlen := BitVec.ofNat 32 (33 + 8 * s.msglen.toNat), err := .ok,
                                        reqbits := 0, availbits := 0, busy := false, done := true } ∧
      (∀ i < 32, bitRead b i = s.msglen.getLsbD (31 - i)) ∧
      bitRead b 32 = decide (s.kind = .binary) ∧
      (∀ j < s.msglen.toNat, ∀ t < 8,
        bitRead b (33 + 8 * j + t) = (readByte .msg s.msg j).getLsbD (7 - t)) ∧
      (∀ k, 33 + 8 * s.msglen.toNat ≤ k → k < 8 * (5 + s.msglen.toNat) → bitRead b k = false) ∧
      ∀ a, 5 + s.msglen.toNat ≤ a → readByte .bits b a = readByte .bits s.bits a

/-- 43_bitpacker.md R171, R175, 30_encoding.md R106: UNFRAME of a bitstream that fits BITS and holds a whole frame, its
declared length `L`, completes OK: MSGLEN is `L`, KIND is stream bit 32, message byte `j` is the stream's bits from 33
+ 8j on; MSG from `L` on reads as before and nothing else changes but the completion registers. -/
def Obligations.UnframeRecoversTheMessage : Prop :=
  ∀ (s : State) (L : Nat), L = ∑ i ∈ Finset.range 32, (bitRead s.bits i).toNat * 2 ^ (31 - i) →
    s.bitlen.toNat ≤ 262177 → 33 + 8 * L ≤ s.bitlen.toNat →
    ∃ b, exec .unframe s = .next { s with msg := b, msglen := BitVec.ofNat 32 L,
                                          kind := if bitRead s.bits 32 then .binary else .text, err := .ok,
                                          reqbits := 0, availbits := 0, busy := false, done := true } ∧
      (∀ j < L, ∀ t < 8, (readByte .msg b j).getLsbD (7 - t) = bitRead s.bits (33 + 8 * j + t)) ∧
      ∀ a, L ≤ a → readByte .msg b a = readByte .msg s.msg a

/-- 43_bitpacker.md R171, R175, R176: UNFRAME of a bitstream longer than BITS ends in BadOperand; of one too short for
a header, or for the length it declares, in MalformedFrame; each changes only the completion registers. -/
def Obligations.UnframeRefusesWhatIsNoFrame : Prop :=
  ∀ (s : State) (L : Nat), L = ∑ i ∈ Finset.range 32, (bitRead s.bits i).toNat * 2 ^ (31 - i) →
    (262177 < s.bitlen.toNat →
      exec .unframe s = .next { s with err := .badOperand, reqbits := 0, availbits := 0, busy := false,
                                       done := true }) ∧
    (s.bitlen.toNat < 33 ∨ (33 ≤ s.bitlen.toNat ∧ s.bitlen.toNat ≤ 262177 ∧ s.bitlen.toNat - 33 < 8 * L) →
      exec .unframe s = .next { s with err := .malformedFrame, reqbits := 0, availbits := 0, busy := false,
                                       done := true })

/-- 43_bitpacker.md R173: unframing inverts framing whatever follows the frame, and fails when any bit of it is
missing. -/
def Obligations.UnframeInvertsFrame : Prop :=
  ∀ (m : List Byte) (k : Kind) (tail : List Bool) (n : Nat), m.length < 2 ^ 32 →
    n ≤ (frameBits m k ++ tail).length →
    (33 + 8 * m.length ≤ n → unframeBits ((frameBits m k ++ tail).take n) = some (m, k)) ∧
    (n < 33 + 8 * m.length → unframeBits ((frameBits m k ++ tail).take n) = none)

/-- 20_memory.md R70: writing a bitstream into BITS as whole bytes is writing its bits one by one, then 0 into the
unused low bits of the last byte touched. -/
def Obligations.StreamWriteIsBitByBit : Prop :=
  ∀ (buf : Buffer) (l : List Bool) (a : Nat),
    readByte .bits (writeStream buf l) a =
      readByte .bits
        (((l ++ List.replicate (8 * ((l.length + 7) / 8) - l.length) false).zipIdx).foldl
          (fun b p => bitWrite b p.2 p.1) buf) a

/-! ### StegoCodec -/

/-- 10_state.md R30, R31, 44_stegocodec.md R187, R188: the geometry fields, the capacity and the geometry check, as
arithmetic on the registers. -/
def Obligations.GeometryAndCapacity : Prop :=
  ∀ s : State,
    s.cap = 3 * (s.imgdim.toNat % 65536) * (s.imgdim.toNat / 65536) ∧
    s.cpp = (if s.alpha then 4 else 3) ∧
    (s.geomOk = true ↔ s.cpp * (s.imgdim.toNat % 65536) * (s.imgdim.toNat / 65536) ≤ 262144) ∧
    (s.geomOk = true → s.cap ≤ 262144)

/-- 10_state.md R45, 44_stegocodec.md R185, R186, R187: a position is its pixel's channel in row-major order, positions
are strictly increasing, never an alpha byte, and those below the capacity of a valid geometry are inside PIX. -/
def Obligations.PositionsWalkThePixels : Prop :=
  (∀ cpp w k, 0 < w → pos cpp k = (k / 3 / w * w + k / 3 % w) * cpp + k % 3) ∧
  (∀ cpp j k, 3 ≤ cpp → j < k → pos cpp j < pos cpp k) ∧
  (∀ k, pos 4 k % 4 ≠ 3) ∧
  ∀ s : State, s.geomOk = true → ∀ k < s.cap,
    pos s.cpp k < s.cpp * s.imgW * s.imgH ∧ s.cpp * s.imgW * s.imgH ≤ 262144

/-- 44_stegocodec.md R191: EMBED of a bitstream that fits BITS into a valid image that can hold it completes OK: bit 0
of the byte at each position below BITLEN is the stream's bit and its bits 7:1 are kept; every other byte of PIX reads
as before and nothing else changes but the completion registers. -/
def Obligations.EmbedWritesTheStream : Prop :=
  ∀ s : State, s.bitlen.toNat ≤ 262177 → s.geomOk = true → s.bitlen.toNat ≤ s.cap →
    ∃ b, exec .embed s = .next { s with pix := b, err := .ok, reqbits := 0, availbits := 0, busy := false,
                                        done := true } ∧
      (∀ k < s.bitlen.toNat, (readByte .pix b (pos s.cpp k)).getLsbD 0 = bitRead s.bits k ∧
        ∀ i < 7, (readByte .pix b (pos s.cpp k)).getLsbD (i + 1) =
          (readByte .pix s.pix (pos s.cpp k)).getLsbD (i + 1)) ∧
      ∀ a, (∀ k < s.bitlen.toNat, a ≠ pos s.cpp k) → readByte .pix b a = readByte .pix s.pix a

/-- 44_stegocodec.md R191, R192: when EMBED is refused, in the order of its checks, and what it leaves. -/
def Obligations.EmbedRefusals : Prop :=
  ∀ s : State,
    (262177 < s.bitlen.toNat ∨ s.geomOk = false →
      exec .embed s = .next { s with err := .badOperand, reqbits := 0, availbits := 0, busy := false,
                                     done := true }) ∧
    (s.bitlen.toNat ≤ 262177 ∧ s.geomOk = true ∧ s.cap < s.bitlen.toNat →
      exec .embed s = .next { s with err := .insufficientCapacity, reqbits := s.bitlen,
                                     availbits := BitVec.ofNat 32 s.cap, busy := false, done := true })

/-- 44_stegocodec.md R197, R198, 20_memory.md R70: EXTRACT from a valid image completes OK: BITLEN is n = min(MAXBITS,
CAP), stream bit `k` is bit 0 of the byte at position `k`, the unused bits of the last byte touched are 0, every later
byte of BITS reads as before and nothing else changes but the completion registers. -/
def Obligations.ExtractReadsTheStream : Prop :=
  ∀ (s : State) (n : Nat), s.geomOk = true → n = min s.maxbits.toNat s.cap →
    ∃ b, exec .extract s = .next { s with bits := b, bitlen := BitVec.ofNat 32 n, err := .ok, reqbits := 0,
                                          availbits := 0, busy := false, done := true } ∧
      (∀ k < n, bitRead b k = (readByte .pix s.pix (pos s.cpp k)).getLsbD 0) ∧
      (∀ k, n ≤ k → k < 8 * ((n + 7) / 8) → bitRead b k = false) ∧
      ∀ a, (n + 7) / 8 ≤ a → readByte .bits b a = readByte .bits s.bits a

/-- 60_exceptions.md R235 (a), (c), (d): XFORM, FRAME and EXTRACT with an operand that denotes no object end in
BadOperand and change only the completion registers. -/
def Obligations.BadOperandsAreRefused : Prop :=
  ∀ s : State,
    (32768 < s.msglen.toNat ∨ 22 < s.secret.toNat →
      exec .xform s = .next { s with err := .badOperand, reqbits := 0, availbits := 0, busy := false,
                                     done := true }) ∧
    (32768 < s.msglen.toNat →
      exec .frame s = .next { s with err := .badOperand, reqbits := 0, availbits := 0, busy := false,
                                     done := true }) ∧
    (s.geomOk = false →
      exec .extract s = .next { s with err := .badOperand, reqbits := 0, availbits := 0, busy := false,
                                       done := true })

/-- 44_stegocodec.md R193: the five laws of embedding and extracting, (a) to (e) in this order, the third split into
unused positions, alpha bytes and the bytes beyond the image. -/
def Obligations.EmbedAndExtractLaws : Prop :=
  ∀ (cpp : Nat) (pix : Buffer) (l : List Bool), 3 ≤ cpp →
    (∀ n k, k < n → (extractBits cpp (embedBits cpp pix l) n)[k]? =
      some (if h : k < l.length then l[k] else (readByte .pix pix (pos cpp k)).getLsbD 0)) ∧
    (∀ a i, (readByte .pix (embedBits cpp pix l) a).getLsbD (i + 1) = (readByte .pix pix a).getLsbD (i + 1)) ∧
    (∀ k, l.length ≤ k → readByte .pix (embedBits cpp pix l) (pos cpp k) = readByte .pix pix (pos cpp k)) ∧
    (cpp = 4 → ∀ a, a % 4 = 3 → readByte .pix (embedBits cpp pix l) a = readByte .pix pix a) ∧
    (∀ w h a, l.length ≤ 3 * w * h → cpp * w * h ≤ a →
      readByte .pix (embedBits cpp pix l) a = readByte .pix pix a) ∧
    (∀ a, readByte .pix (embedBits cpp (embedBits cpp pix l) l) a = readByte .pix (embedBits cpp pix l) a) ∧
    (∀ a, (readByte .pix (embedBits cpp pix l) a).toNat ≤ (readByte .pix pix a).toNat + 1 ∧
      (readByte .pix pix a).toNat ≤ (readByte .pix (embedBits cpp pix l) a).toNat + 1) ∧
    ∀ N, ((Finset.range N).filter fun a => readByte .pix (embedBits cpp pix l) a ≠ readByte .pix pix a).card ≤
      l.length

/-! ### Engine -/

/-- 45_engine.md R213, 30_encoding.md R105: ENCODE on operands that pass its checks completes OK: the LSBs at the first
33 + 8 * MSGLEN positions become the length, the Kind bit and the message bytes ciphered with the secret PUB^PRIV mod
23; bits 7:1 and every other byte of PIX are kept and nothing else changes but the completion registers. -/
def Obligations.EncodeEmbedsTheCipheredFrame : Prop :=
  ∀ s : State, s.msglen.toNat ≤ 32768 → s.geomOk = true → 1 ≤ s.priv.toNat → s.priv.toNat ≤ 22 → s.pub.toNat ≤ 22 →
    33 + 8 * s.msglen.toNat ≤ s.cap →
    ∃ b, exec .encode s = .next { s with pix := b, err := .ok, reqbits := 0, availbits := 0, busy := false,
                                         done := true } ∧
      (∀ i < 32, lsbAt s.cpp b i = s.msglen.getLsbD (31 - i)) ∧
      lsbAt s.cpp b 32 = decide (s.kind = .binary) ∧
      (∀ j < s.msglen.toNat, ∀ t < 8, lsbAt s.cpp b (33 + 8 * j + t) =
        (readByte .msg s.msg j ^^^ BitVec.ofNat 8 ((s.pub.toNat ^ s.priv.toNat % 23 + j) % 256)).getLsbD (7 - t)) ∧
      (∀ a i, (readByte .pix b a).getLsbD (i + 1) = (readByte .pix s.pix a).getLsbD (i + 1)) ∧
      ∀ a, (∀ k < 33 + 8 * s.msglen.toNat, a ≠ pos s.cpp k) → readByte .pix b a = readByte .pix s.pix a

/-- 45_engine.md R213, R214, 60_exceptions.md R245: when ENCODE is refused, in the order of its checks, and what it
leaves. -/
def Obligations.EncodeRefusals : Prop :=
  ∀ s : State,
    (32768 < s.msglen.toNat ∨ s.geomOk = false →
      exec .encode s = .next { s with err := .badOperand, reqbits := 0, availbits := 0, busy := false,
                                      done := true }) ∧
    (s.msglen.toNat ≤ 32768 ∧ s.geomOk = true ∧ (s.priv.toNat = 0 ∨ 23 ≤ s.priv.toNat ∨ 23 ≤ s.pub.toNat) →
      exec .encode s = .next { s with err := .invalidKeyRange, reqbits := 0, availbits := 0, busy := false,
                                      done := true }) ∧
    (s.msglen.toNat ≤ 32768 ∧ s.geomOk = true ∧ 1 ≤ s.priv.toNat ∧ s.priv.toNat ≤ 22 ∧ s.pub.toNat ≤ 22 ∧
        s.cap < 33 + 8 * s.msglen.toNat →
      exec .encode s = .next { s with err := .insufficientCapacity,
                                      reqbits := BitVec.ofNat 32 (33 + 8 * s.msglen.toNat),
                                      availbits := BitVec.ofNat 32 s.cap, busy := false, done := true })

/-- 45_engine.md R217: DECODE with a consistent pair and a valid image that holds a whole frame, its declared length
`L`, completes OK: MSGLEN is `L`, KIND is the bit at position 32, message byte `j` is the payload byte deciphered with
the pair's secret; MSG from `L` on reads as before and nothing else changes but the completion registers. -/
def Obligations.DecodeRecoversTheMessage : Prop :=
  ∀ (s : State) (L : Nat), L = ∑ i ∈ Finset.range 32, (lsbAt s.cpp s.pix i).toNat * 2 ^ (31 - i) →
    s.geomOk = true → 1 ≤ s.priv.toNat → s.priv.toNat ≤ 22 → s.pub.toNat = 9 ^ s.priv.toNat % 23 →
    33 + 8 * L ≤ s.cap →
    ∃ b, exec .decode s = .next { s with msg := b, msglen := BitVec.ofNat 32 L,
                                         kind := if lsbAt s.cpp s.pix 32 then .binary else .text, err := .ok,
                                         reqbits := 0, availbits := 0, busy := false, done := true } ∧
      (∀ j < L, ∀ t < 8, (readByte .msg b j).getLsbD (7 - t) =
        (lsbAt s.cpp s.pix (33 + 8 * j + t) ^^
          (BitVec.ofNat 8 ((s.pub.toNat ^ s.priv.toNat % 23 + j) % 256)).getLsbD (7 - t))) ∧
      ∀ a, L ≤ a → readByte .msg b a = readByte .msg s.msg a

/-- 45_engine.md R217, R218, R219, 60_exceptions.md R245: when DECODE is refused, in the order of its checks, and what it
leaves. -/
def Obligations.DecodeRefusals : Prop :=
  ∀ (s : State) (L : Nat), L = ∑ i ∈ Finset.range 32, (lsbAt s.cpp s.pix i).toNat * 2 ^ (31 - i) →
    (s.geomOk = false →
      exec .decode s = .next { s with err := .badOperand, reqbits := 0, availbits := 0, busy := false,
                                      done := true }) ∧
    (s.geomOk = true ∧ (s.priv.toNat = 0 ∨ 23 ≤ s.priv.toNat ∨ 23 ≤ s.pub.toNat) →
      exec .decode s = .next { s with err := .invalidKeyRange, reqbits := 0, availbits := 0, busy := false,
                                      done := true }) ∧
    (s.geomOk = true ∧ 1 ≤ s.priv.toNat ∧ s.priv.toNat ≤ 22 ∧ s.pub.toNat ≤ 22 ∧
        (s.pub.toNat ≠ 9 ^ s.priv.toNat % 23 ∨ s.cap < 33 ∨ (33 ≤ s.cap ∧ s.cap - 33 < 8 * L)) →
      exec .decode s = .next { s with err := .malformedFrame, reqbits := 0, availbits := 0, busy := false,
                                      done := true })

/-- 45_engine.md R221: ENCODE with a consistent pair, a valid geometry and room for the frame, then DECODE with the
keys, the geometry and PIX untouched and everything else arbitrary, gives back the message and its Kind. -/
def Obligations.DecodeInvertsEncode : Prop :=
  ∀ s : State, 1 ≤ s.priv.toNat → s.priv.toNat ≤ 22 → s.pub.toNat = 9 ^ s.priv.toNat % 23 → s.geomOk = true →
    s.msglen.toNat ≤ 32768 → 33 + 8 * s.msglen.toNat ≤ s.cap →
    ∃ t, exec .encode s = .next t ∧ t.err = .ok ∧
      ∀ u : State, u.priv = t.priv → u.pub = t.pub → u.imgdim = t.imgdim → u.alpha = t.alpha →
        (∀ a, readByte .pix u.pix a = readByte .pix t.pix a) →
        ∃ v, exec .decode u = .next v ∧ v.err = .ok ∧ v.msglen = s.msglen ∧ v.kind = s.kind ∧
          ∀ j < s.msglen.toNat, readByte .msg v.msg j = readByte .msg s.msg j

/-- 45_engine.md R222, last two rows: DECODE of an image made by ENCODE with a consistent pair, under any consistent
pair, completes OK with the right length and Kind; the message is the right one when the two secrets are equal, and
wrong in every byte when they differ. -/
def Obligations.WrongSecretGarblesEveryByte : Prop :=
  ∀ s : State, 1 ≤ s.priv.toNat → s.priv.toNat ≤ 22 → s.pub.toNat = 9 ^ s.priv.toNat % 23 → s.geomOk = true →
    s.msglen.toNat ≤ 32768 → 33 + 8 * s.msglen.toNat ≤ s.cap →
    ∃ t, exec .encode s = .next t ∧ t.err = .ok ∧
      ∀ u : State, 1 ≤ u.priv.toNat → u.priv.toNat ≤ 22 → u.pub.toNat = 9 ^ u.priv.toNat % 23 →
        u.imgdim = t.imgdim → u.alpha = t.alpha → (∀ a, readByte .pix u.pix a = readByte .pix t.pix a) →
        ∃ v, exec .decode u = .next v ∧ v.err = .ok ∧ v.msglen = s.msglen ∧ v.kind = s.kind ∧
          (s.pub.toNat ^ s.priv.toNat % 23 = u.pub.toNat ^ u.priv.toNat % 23 →
            ∀ j < s.msglen.toNat, readByte .msg v.msg j = readByte .msg s.msg j) ∧
          (s.pub.toNat ^ s.priv.toNat % 23 ≠ u.pub.toNat ^ u.priv.toNat % 23 →
            ∀ j < s.msglen.toNat, readByte .msg v.msg j ≠ readByte .msg s.msg j)

/-- 45_engine.md R215: ENCODE completes OK exactly when DSEC, XFORM, FRAME and EMBED in a row all do, and then leaves PIX
as they do; one more XFORM then restores their MSG. Unless a key and another operand are bad at once, its code is that
of the first of them that fails (log entry 13: then R245 sets another order than R215). -/
def Obligations.EncodeIsThePrimitiveChain : Prop :=
  ∀ s : State, ∃ t t1 t2 t3 t4 t5, exec .encode s = .next t ∧
    exec .dsec s = .next t1 ∧ exec .xform t1 = .next t2 ∧ exec .frame t2 = .next t3 ∧ exec .embed t3 = .next t4 ∧
    exec .xform t4 = .next t5 ∧
    (t.err = .ok ↔ t1.err = .ok ∧ t2.err = .ok ∧ t3.err = .ok ∧ t4.err = .ok) ∧
    ((1 ≤ s.priv.toNat ∧ s.priv.toNat ≤ 22 ∧ s.pub.toNat ≤ 22) ∨ (s.msglen.toNat ≤ 32768 ∧ s.geomOk = true) →
      t.err = firstError [t1.err, t2.err, t3.err, t4.err]) ∧
    (t.err = .ok → t.pix = t4.pix ∧ ∀ a, readByte .msg t5.msg a = readByte .msg s.msg a)

/-- 45_engine.md R220: with a consistent pair DECODE completes OK exactly when, MAXBITS being 0xFFFFFFFF, EXTRACT,
UNFRAME, DSEC and XFORM in a row all do, and then leaves MSG, MSGLEN and KIND as they do; with PRIV in 1 to 22 its code
is that of the first of them that fails (log entry 13: R245 sets another order when PRIV is out of range too). -/
def Obligations.DecodeIsThePrimitiveChain : Prop :=
  ∀ s : State, s.pub.toNat = 9 ^ s.priv.toNat % 23 →
    ∃ t t1 t2 t3 t4, exec .decode s = .next t ∧
      exec .extract { s with maxbits := 0xFFFFFFFF } = .next t1 ∧ exec .unframe t1 = .next t2 ∧
      exec .dsec t2 = .next t3 ∧ exec .xform t3 = .next t4 ∧
      (t.err = .ok ↔ t1.err = .ok ∧ t2.err = .ok ∧ t3.err = .ok ∧ t4.err = .ok) ∧
      (1 ≤ s.priv.toNat → s.priv.toNat ≤ 22 → t.err = firstError [t1.err, t2.err, t3.err, t4.err]) ∧
      (t.err = .ok → t.msglen = t4.msglen ∧ t.kind = t4.kind ∧
        ∀ a, readByte .msg t.msg a = readByte .msg t4.msg a)

/-- 45_engine.md R223: of images never embedded, one whose used channels are all odd is refused as MalformedFrame, and
one whose used channels are all even with room for a header decodes to the empty Text message. -/
def Obligations.ImagesNeverEmbedded : Prop :=
  ∀ s : State, s.geomOk = true → 1 ≤ s.priv.toNat → s.priv.toNat ≤ 22 → s.pub.toNat = 9 ^ s.priv.toNat % 23 →
    ((∀ k < s.cap, lsbAt s.cpp s.pix k = true) → ∃ t, exec .decode s = .next t ∧ t.err = .malformedFrame) ∧
    ((∀ k < s.cap, lsbAt s.cpp s.pix k = false) → 33 ≤ s.cap →
      ∃ t, exec .decode s = .next t ∧ t.err = .ok ∧ t.msglen = 0 ∧ t.kind = .text ∧
        ∀ a, readByte .msg t.msg a = readByte .msg s.msg a)

/-! ### Every command -/

/-- 40_command_protocol.md R128, R124: a busy block whose word is none of 1 to 9 completes with IllegalCommand and
changes only the completion registers; the word stays in CMD. As in `StepRunsTheCommandInFlight`, an `engine` event is
taken off the agenda, the model's own (log entry 1), first. STATUS then reads 0x42 (60_exceptions.md R230). -/
def Obligations.IllegalWordCompletesAsIllegal : Prop :=
  ∀ s : State, s.busy = true → s.cmd.toNat = 0 ∨ 10 ≤ s.cmd.toNat →
    (s.agenda = [] →
      ∃ t, step s = .next t ∧
        t = { s with err := .illegalCommand, reqbits := 0, availbits := 0, busy := false, done := true } ∧
        readReg t .status = 0x42) ∧
    ∀ rest, s.agenda = .engine :: rest →
      ∃ t, step s = .next t ∧
        t = { s with agenda := rest, err := .illegalCommand, reqbits := 0, availbits := 0, busy := false,
                     done := true } ∧
        readReg t .status = 0x42

/-- 60_exceptions.md R236, 10_state.md R38: a command that ends in an error changes nothing but the completion
registers, and REQBITS and AVAILBITS are 0 unless the code is InsufficientCapacity. -/
def Obligations.ErrorsAreAllOrNothing : Prop :=
  ∀ i s t, exec i s = .next t → t.err ≠ .ok →
    t = { s with err := t.err, reqbits := t.reqbits, availbits := t.availbits, busy := false, done := true } ∧
    (t.err ≠ .insufficientCapacity → t.reqbits = 0 ∧ t.availbits = 0)

/-- 60_exceptions.md R238: which command can end with which code. -/
def Obligations.OnlyListedCodesAreProduced : Prop :=
  ∀ i s t, exec i s = .next t → t.err ∈ possibleCodes i

/-- 10_state.md R29, column "writes on OK": what no command, and what only the named commands, can change. `agenda`
and `reply` are the model's own fields (log entries 1 and 2). -/
def Obligations.CommandsWriteOnlyTheirListedState : Prop :=
  ∀ i s t, exec i s = .next t →
    t.priv = s.priv ∧ t.maxbits = s.maxbits ∧ t.imgdim = s.imgdim ∧ t.alpha = s.alpha ∧ t.ie = s.ie ∧ t.cmd = s.cmd ∧
    t.agenda = s.agenda ∧ t.reply = s.reply ∧
    (t.pub ≠ s.pub → i = .dpub) ∧ (t.secret ≠ s.secret → i = .dsec) ∧
    (t.kind ≠ s.kind ∨ t.msglen ≠ s.msglen → i = .unframe ∨ i = .decode) ∧
    (t.bitlen ≠ s.bitlen ∨ t.bits ≠ s.bits → i = .frame ∨ i = .extract) ∧
    (t.msg ≠ s.msg → i = .xform ∨ i = .unframe ∨ i = .decode) ∧
    (t.pix ≠ s.pix → i = .embed ∨ i = .encode)

/-- 10_state.md R29, R49: a command's code, its detail and, when it completes OK, everything it writes depend on nothing
but its "reads" set. -/
def Obligations.ResultsDependOnlyOnTheReadsSet : Prop :=
  ∀ i s s' t t', readsAgree s s' i → exec i s = .next t → exec i s' = .next t' →
    t.err = t'.err ∧ t.reqbits = t'.reqbits ∧ t.availbits = t'.availbits ∧ (t.err = .ok → writesAgree s t t' i)

/-! ### Every step -/

/-- 10_state.md R36, R38, R44, 44_stegocodec.md R187: every step keeps the invariant: the buffers in canonical form with
no byte outside them, BUSY and DONE never both 1, ERR clear while busy, REQBITS and AVAILBITS 0 unless the code is
InsufficientCapacity and within their bounds. The canonical form is the model's own (log entry 3). -/
def Obligations.EveryStepKeepsTheInvariant : Prop :=
  ∀ s t, s.Inv → step s = .next t → t.Inv

/-- 70_reset_and_hazards.md R282, 00_scope.md R15: a command in flight that no coming reset abandons completes, within
one step more than there are coming events: BUSY falls, DONE rises and CMD still holds its word. And whatever is coming,
that many steps leave no event and the block idle, so no state is stuck. That the engine's turn comes when the events are
used up is how the model takes its fairness (log entries 1 and 11). -/
def Obligations.EveryCommandCompletes : Prop :=
  (∀ s : State, s.busy = true → Event.hwReset ∉ s.agenda →
    (∀ data, Event.bus (.write 32 0x008 data) ∈ s.agenda → data.testBit 1 = false) →
    ∃ k ≤ s.agenda.length + 1, ∃ t : State, core.run k s = .next t ∧ t.busy = false ∧ t.done = true ∧ t.cmd = s.cmd) ∧
  ∀ s : State, ∃ t, core.run (s.agenda.length + 1) s = .next t ∧ t.runOver

/-- 20_memory.md R80: a byte nothing has written keeps its value through every step that does not write it, unless the
step is a hardware reset or a soft reset of a busy block. The list of written bytes and the epochs are the model's own
(log entries 3 and 5). -/
def Obligations.UnwrittenBytesAreStable : Prop :=
  ∀ s t sp, step s = .next t → (∀ rest, s.agenda ≠ .hwReset :: rest) →
    (∀ data rest, s.agenda = .bus (.write 32 0x008 data) :: rest → data.testBit 1 = true → s.busy = false) →
    (t.buf sp).epoch = (s.buf sp).epoch ∧
    ∀ a, getCell a (t.buf sp).cells = none → readByte sp (t.buf sp) a = readByte sp (s.buf sp) a

/-- 30_encoding.md R111, 40_command_protocol.md R127: the host's RUN of a command on an idle block, with any number of
polls, ends idle with what the command leaves and STATUS read with BUSY clear. The agenda, the reply and the engine's turn
after the polls are the model's own (log entries 1, 2 and 11). -/
def Obligations.RunStatementCompletesItsCommand : Prop :=
  ∀ (s : State) c polls t, s.busy = false → s.agenda = expand (.run c polls) →
    exec c (issue s (encode c)) = .next t →
    core.run (polls + 3) s = .next { t with agenda := [], reply := some (.word (statusWord t)) }
end

