-- ==== Sys2Proof/Laws/State.lean ====
section
/-! SUPPORT. One lemma per field per update of the state, true by `rfl` and in the simp set, so that no later proof
unfolds an update. -/

namespace Sys2Proof.Machine

variable (s : State)


/-! `State.withPriv` -/

@[simp] theorem State.withPriv_priv (v : Word) : (s.withPriv v).priv = v := rfl
@[simp] theorem State.withPriv_pub (v : Word) : (s.withPriv v).pub = s.pub := rfl
@[simp] theorem State.withPriv_secret (v : Word) : (s.withPriv v).secret = s.secret := rfl
@[simp] theorem State.withPriv_kind (v : Word) : (s.withPriv v).kind = s.kind := rfl
@[simp] theorem State.withPriv_msglen (v : Word) : (s.withPriv v).msglen = s.msglen := rfl
@[simp] theorem State.withPriv_bitlen (v : Word) : (s.withPriv v).bitlen = s.bitlen := rfl
@[simp] theorem State.withPriv_maxbits (v : Word) : (s.withPriv v).maxbits = s.maxbits := rfl
@[simp] theorem State.withPriv_imgdim (v : Word) : (s.withPriv v).imgdim = s.imgdim := rfl
@[simp] theorem State.withPriv_alpha (v : Word) : (s.withPriv v).alpha = s.alpha := rfl
@[simp] theorem State.withPriv_ie (v : Word) : (s.withPriv v).ie = s.ie := rfl
@[simp] theorem State.withPriv_busy (v : Word) : (s.withPriv v).busy = s.busy := rfl
@[simp] theorem State.withPriv_done (v : Word) : (s.withPriv v).done = s.done := rfl
@[simp] theorem State.withPriv_err (v : Word) : (s.withPriv v).err = s.err := rfl
@[simp] theorem State.withPriv_cmd (v : Word) : (s.withPriv v).cmd = s.cmd := rfl
@[simp] theorem State.withPriv_reqbits (v : Word) : (s.withPriv v).reqbits = s.reqbits := rfl
@[simp] theorem State.withPriv_availbits (v : Word) : (s.withPriv v).availbits = s.availbits := rfl
@[simp] theorem State.withPriv_msg (v : Word) : (s.withPriv v).msg = s.msg := rfl
@[simp] theorem State.withPriv_bits (v : Word) : (s.withPriv v).bits = s.bits := rfl
@[simp] theorem State.withPriv_pix (v : Word) : (s.withPriv v).pix = s.pix := rfl
@[simp] theorem State.withPriv_agenda (v : Word) : (s.withPriv v).agenda = s.agenda := rfl
@[simp] theorem State.withPriv_reply (v : Word) : (s.withPriv v).reply = s.reply := rfl

/-! `State.withPub` -/

@[simp] theorem State.withPub_priv (v : Word) : (s.withPub v).priv = s.priv := rfl
@[simp] theorem State.withPub_pub (v : Word) : (s.withPub v).pub = v := rfl
@[simp] theorem State.withPub_secret (v : Word) : (s.withPub v).secret = s.secret := rfl
@[simp] theorem State.withPub_kind (v : Word) : (s.withPub v).kind = s.kind := rfl
@[simp] theorem State.withPub_msglen (v : Word) : (s.withPub v).msglen = s.msglen := rfl
@[simp] theorem State.withPub_bitlen (v : Word) : (s.withPub v).bitlen = s.bitlen := rfl
@[simp] theorem State.withPub_maxbits (v : Word) : (s.withPub v).maxbits = s.maxbits := rfl
@[simp] theorem State.withPub_imgdim (v : Word) : (s.withPub v).imgdim = s.imgdim := rfl
@[simp] theorem State.withPub_alpha (v : Word) : (s.withPub v).alpha = s.alpha := rfl
@[simp] theorem State.withPub_ie (v : Word) : (s.withPub v).ie = s.ie := rfl
@[simp] theorem State.withPub_busy (v : Word) : (s.withPub v).busy = s.busy := rfl
@[simp] theorem State.withPub_done (v : Word) : (s.withPub v).done = s.done := rfl
@[simp] theorem State.withPub_err (v : Word) : (s.withPub v).err = s.err := rfl
@[simp] theorem State.withPub_cmd (v : Word) : (s.withPub v).cmd = s.cmd := rfl
@[simp] theorem State.withPub_reqbits (v : Word) : (s.withPub v).reqbits = s.reqbits := rfl
@[simp] theorem State.withPub_availbits (v : Word) : (s.withPub v).availbits = s.availbits := rfl
@[simp] theorem State.withPub_msg (v : Word) : (s.withPub v).msg = s.msg := rfl
@[simp] theorem State.withPub_bits (v : Word) : (s.withPub v).bits = s.bits := rfl
@[simp] theorem State.withPub_pix (v : Word) : (s.withPub v).pix = s.pix := rfl
@[simp] theorem State.withPub_agenda (v : Word) : (s.withPub v).agenda = s.agenda := rfl
@[simp] theorem State.withPub_reply (v : Word) : (s.withPub v).reply = s.reply := rfl

/-! `State.withSecret` -/

@[simp] theorem State.withSecret_priv (v : Word) : (s.withSecret v).priv = s.priv := rfl
@[simp] theorem State.withSecret_pub (v : Word) : (s.withSecret v).pub = s.pub := rfl
@[simp] theorem State.withSecret_secret (v : Word) : (s.withSecret v).secret = v := rfl
@[simp] theorem State.withSecret_kind (v : Word) : (s.withSecret v).kind = s.kind := rfl
@[simp] theorem State.withSecret_msglen (v : Word) : (s.withSecret v).msglen = s.msglen := rfl
@[simp] theorem State.withSecret_bitlen (v : Word) : (s.withSecret v).bitlen = s.bitlen := rfl
@[simp] theorem State.withSecret_maxbits (v : Word) : (s.withSecret v).maxbits = s.maxbits := rfl
@[simp] theorem State.withSecret_imgdim (v : Word) : (s.withSecret v).imgdim = s.imgdim := rfl
@[simp] theorem State.withSecret_alpha (v : Word) : (s.withSecret v).alpha = s.alpha := rfl
@[simp] theorem State.withSecret_ie (v : Word) : (s.withSecret v).ie = s.ie := rfl
@[simp] theorem State.withSecret_busy (v : Word) : (s.withSecret v).busy = s.busy := rfl
@[simp] theorem State.withSecret_done (v : Word) : (s.withSecret v).done = s.done := rfl
@[simp] theorem State.withSecret_err (v : Word) : (s.withSecret v).err = s.err := rfl
@[simp] theorem State.withSecret_cmd (v : Word) : (s.withSecret v).cmd = s.cmd := rfl
@[simp] theorem State.withSecret_reqbits (v : Word) : (s.withSecret v).reqbits = s.reqbits := rfl
@[simp] theorem State.withSecret_availbits (v : Word) : (s.withSecret v).availbits = s.availbits := rfl
@[simp] theorem State.withSecret_msg (v : Word) : (s.withSecret v).msg = s.msg := rfl
@[simp] theorem State.withSecret_bits (v : Word) : (s.withSecret v).bits = s.bits := rfl
@[simp] theorem State.withSecret_pix (v : Word) : (s.withSecret v).pix = s.pix := rfl
@[simp] theorem State.withSecret_agenda (v : Word) : (s.withSecret v).agenda = s.agenda := rfl
@[simp] theorem State.withSecret_reply (v : Word) : (s.withSecret v).reply = s.reply := rfl

/-! `State.withKind` -/

@[simp] theorem State.withKind_priv (v : Kind) : (s.withKind v).priv = s.priv := rfl
@[simp] theorem State.withKind_pub (v : Kind) : (s.withKind v).pub = s.pub := rfl
@[simp] theorem State.withKind_secret (v : Kind) : (s.withKind v).secret = s.secret := rfl
@[simp] theorem State.withKind_kind (v : Kind) : (s.withKind v).kind = v := rfl
@[simp] theorem State.withKind_msglen (v : Kind) : (s.withKind v).msglen = s.msglen := rfl
@[simp] theorem State.withKind_bitlen (v : Kind) : (s.withKind v).bitlen = s.bitlen := rfl
@[simp] theorem State.withKind_maxbits (v : Kind) : (s.withKind v).maxbits = s.maxbits := rfl
@[simp] theorem State.withKind_imgdim (v : Kind) : (s.withKind v).imgdim = s.imgdim := rfl
@[simp] theorem State.withKind_alpha (v : Kind) : (s.withKind v).alpha = s.alpha := rfl
@[simp] theorem State.withKind_ie (v : Kind) : (s.withKind v).ie = s.ie := rfl
@[simp] theorem State.withKind_busy (v : Kind) : (s.withKind v).busy = s.busy := rfl
@[simp] theorem State.withKind_done (v : Kind) : (s.withKind v).done = s.done := rfl
@[simp] theorem State.withKind_err (v : Kind) : (s.withKind v).err = s.err := rfl
@[simp] theorem State.withKind_cmd (v : Kind) : (s.withKind v).cmd = s.cmd := rfl
@[simp] theorem State.withKind_reqbits (v : Kind) : (s.withKind v).reqbits = s.reqbits := rfl
@[simp] theorem State.withKind_availbits (v : Kind) : (s.withKind v).availbits = s.availbits := rfl
@[simp] theorem State.withKind_msg (v : Kind) : (s.withKind v).msg = s.msg := rfl
@[simp] theorem State.withKind_bits (v : Kind) : (s.withKind v).bits = s.bits := rfl
@[simp] theorem State.withKind_pix (v : Kind) : (s.withKind v).pix = s.pix := rfl
@[simp] theorem State.withKind_agenda (v : Kind) : (s.withKind v).agenda = s.agenda := rfl
@[simp] theorem State.withKind_reply (v : Kind) : (s.withKind v).reply = s.reply := rfl

/-! `State.withMsglen` -/

@[simp] theorem State.withMsglen_priv (v : Word) : (s.withMsglen v).priv = s.priv := rfl
@[simp] theorem State.withMsglen_pub (v : Word) : (s.withMsglen v).pub = s.pub := rfl
@[simp] theorem State.withMsglen_secret (v : Word) : (s.withMsglen v).secret = s.secret := rfl
@[simp] theorem State.withMsglen_kind (v : Word) : (s.withMsglen v).kind = s.kind := rfl
@[simp] theorem State.withMsglen_msglen (v : Word) : (s.withMsglen v).msglen = v := rfl
@[simp] theorem State.withMsglen_bitlen (v : Word) : (s.withMsglen v).bitlen = s.bitlen := rfl
@[simp] theorem State.withMsglen_maxbits (v : Word) : (s.withMsglen v).maxbits = s.maxbits := rfl
@[simp] theorem State.withMsglen_imgdim (v : Word) : (s.withMsglen v).imgdim = s.imgdim := rfl
@[simp] theorem State.withMsglen_alpha (v : Word) : (s.withMsglen v).alpha = s.alpha := rfl
@[simp] theorem State.withMsglen_ie (v : Word) : (s.withMsglen v).ie = s.ie := rfl
@[simp] theorem State.withMsglen_busy (v : Word) : (s.withMsglen v).busy = s.busy := rfl
@[simp] theorem State.withMsglen_done (v : Word) : (s.withMsglen v).done = s.done := rfl
@[simp] theorem State.withMsglen_err (v : Word) : (s.withMsglen v).err = s.err := rfl
@[simp] theorem State.withMsglen_cmd (v : Word) : (s.withMsglen v).cmd = s.cmd := rfl
@[simp] theorem State.withMsglen_reqbits (v : Word) : (s.withMsglen v).reqbits = s.reqbits := rfl
@[simp] theorem State.withMsglen_availbits (v : Word) : (s.withMsglen v).availbits = s.availbits := rfl
@[simp] theorem State.withMsglen_msg (v : Word) : (s.withMsglen v).msg = s.msg := rfl
@[simp] theorem State.withMsglen_bits (v : Word) : (s.withMsglen v).bits = s.bits := rfl
@[simp] theorem State.withMsglen_pix (v : Word) : (s.withMsglen v).pix = s.pix := rfl
@[simp] theorem State.withMsglen_agenda (v : Word) : (s.withMsglen v).agenda = s.agenda := rfl
@[simp] theorem State.withMsglen_reply (v : Word) : (s.withMsglen v).reply = s.reply := rfl

/-! `State.withBitlen` -/

@[simp] theorem State.withBitlen_priv (v : Word) : (s.withBitlen v).priv = s.priv := rfl
@[simp] theorem State.withBitlen_pub (v : Word) : (s.withBitlen v).pub = s.pub := rfl
@[simp] theorem State.withBitlen_secret (v : Word) : (s.withBitlen v).secret = s.secret := rfl
@[simp] theorem State.withBitlen_kind (v : Word) : (s.withBitlen v).kind = s.kind := rfl
@[simp] theorem State.withBitlen_msglen (v : Word) : (s.withBitlen v).msglen = s.msglen := rfl
@[simp] theorem State.withBitlen_bitlen (v : Word) : (s.withBitlen v).bitlen = v := rfl
@[simp] theorem State.withBitlen_maxbits (v : Word) : (s.withBitlen v).maxbits = s.maxbits := rfl
@[simp] theorem State.withBitlen_imgdim (v : Word) : (s.withBitlen v).imgdim = s.imgdim := rfl
@[simp] theorem State.withBitlen_alpha (v : Word) : (s.withBitlen v).alpha = s.alpha := rfl
@[simp] theorem State.withBitlen_ie (v : Word) : (s.withBitlen v).ie = s.ie := rfl
@[simp] theorem State.withBitlen_busy (v : Word) : (s.withBitlen v).busy = s.busy := rfl
@[simp] theorem State.withBitlen_done (v : Word) : (s.withBitlen v).done = s.done := rfl
@[simp] theorem State.withBitlen_err (v : Word) : (s.withBitlen v).err = s.err := rfl
@[simp] theorem State.withBitlen_cmd (v : Word) : (s.withBitlen v).cmd = s.cmd := rfl
@[simp] theorem State.withBitlen_reqbits (v : Word) : (s.withBitlen v).reqbits = s.reqbits := rfl
@[simp] theorem State.withBitlen_availbits (v : Word) : (s.withBitlen v).availbits = s.availbits := rfl
@[simp] theorem State.withBitlen_msg (v : Word) : (s.withBitlen v).msg = s.msg := rfl
@[simp] theorem State.withBitlen_bits (v : Word) : (s.withBitlen v).bits = s.bits := rfl
@[simp] theorem State.withBitlen_pix (v : Word) : (s.withBitlen v).pix = s.pix := rfl
@[simp] theorem State.withBitlen_agenda (v : Word) : (s.withBitlen v).agenda = s.agenda := rfl
@[simp] theorem State.withBitlen_reply (v : Word) : (s.withBitlen v).reply = s.reply := rfl

/-! `State.withMaxbits` -/

@[simp] theorem State.withMaxbits_priv (v : Word) : (s.withMaxbits v).priv = s.priv := rfl
@[simp] theorem State.withMaxbits_pub (v : Word) : (s.withMaxbits v).pub = s.pub := rfl
@[simp] theorem State.withMaxbits_secret (v : Word) : (s.withMaxbits v).secret = s.secret := rfl
@[simp] theorem State.withMaxbits_kind (v : Word) : (s.withMaxbits v).kind = s.kind := rfl
@[simp] theorem State.withMaxbits_msglen (v : Word) : (s.withMaxbits v).msglen = s.msglen := rfl
@[simp] theorem State.withMaxbits_bitlen (v : Word) : (s.withMaxbits v).bitlen = s.bitlen := rfl
@[simp] theorem State.withMaxbits_maxbits (v : Word) : (s.withMaxbits v).maxbits = v := rfl
@[simp] theorem State.withMaxbits_imgdim (v : Word) : (s.withMaxbits v).imgdim = s.imgdim := rfl
@[simp] theorem State.withMaxbits_alpha (v : Word) : (s.withMaxbits v).alpha = s.alpha := rfl
@[simp] theorem State.withMaxbits_ie (v : Word) : (s.withMaxbits v).ie = s.ie := rfl
@[simp] theorem State.withMaxbits_busy (v : Word) : (s.withMaxbits v).busy = s.busy := rfl
@[simp] theorem State.withMaxbits_done (v : Word) : (s.withMaxbits v).done = s.done := rfl
@[simp] theorem State.withMaxbits_err (v : Word) : (s.withMaxbits v).err = s.err := rfl
@[simp] theorem State.withMaxbits_cmd (v : Word) : (s.withMaxbits v).cmd = s.cmd := rfl
@[simp] theorem State.withMaxbits_reqbits (v : Word) : (s.withMaxbits v).reqbits = s.reqbits := rfl
@[simp] theorem State.withMaxbits_availbits (v : Word) : (s.withMaxbits v).availbits = s.availbits := rfl
@[simp] theorem State.withMaxbits_msg (v : Word) : (s.withMaxbits v).msg = s.msg := rfl
@[simp] theorem State.withMaxbits_bits (v : Word) : (s.withMaxbits v).bits = s.bits := rfl
@[simp] theorem State.withMaxbits_pix (v : Word) : (s.withMaxbits v).pix = s.pix := rfl
@[simp] theorem State.withMaxbits_agenda (v : Word) : (s.withMaxbits v).agenda = s.agenda := rfl
@[simp] theorem State.withMaxbits_reply (v : Word) : (s.withMaxbits v).reply = s.reply := rfl

/-! `State.withImgdim` -/

@[simp] theorem State.withImgdim_priv (v : Word) : (s.withImgdim v).priv = s.priv := rfl
@[simp] theorem State.withImgdim_pub (v : Word) : (s.withImgdim v).pub = s.pub := rfl
@[simp] theorem State.withImgdim_secret (v : Word) : (s.withImgdim v).secret = s.secret := rfl
@[simp] theorem State.withImgdim_kind (v : Word) : (s.withImgdim v).kind = s.kind := rfl
@[simp] theorem State.withImgdim_msglen (v : Word) : (s.withImgdim v).msglen = s.msglen := rfl
@[simp] theorem State.withImgdim_bitlen (v : Word) : (s.withImgdim v).bitlen = s.bitlen := rfl
@[simp] theorem State.withImgdim_maxbits (v : Word) : (s.withImgdim v).maxbits = s.maxbits := rfl
@[simp] theorem State.withImgdim_imgdim (v : Word) : (s.withImgdim v).imgdim = v := rfl
@[simp] theorem State.withImgdim_alpha (v : Word) : (s.withImgdim v).alpha = s.alpha := rfl
@[simp] theorem State.withImgdim_ie (v : Word) : (s.withImgdim v).ie = s.ie := rfl
@[simp] theorem State.withImgdim_busy (v : Word) : (s.withImgdim v).busy = s.busy := rfl
@[simp] theorem State.withImgdim_done (v : Word) : (s.withImgdim v).done = s.done := rfl
@[simp] theorem State.withImgdim_err (v : Word) : (s.withImgdim v).err = s.err := rfl
@[simp] theorem State.withImgdim_cmd (v : Word) : (s.withImgdim v).cmd = s.cmd := rfl
@[simp] theorem State.withImgdim_reqbits (v : Word) : (s.withImgdim v).reqbits = s.reqbits := rfl
@[simp] theorem State.withImgdim_availbits (v : Word) : (s.withImgdim v).availbits = s.availbits := rfl
@[simp] theorem State.withImgdim_msg (v : Word) : (s.withImgdim v).msg = s.msg := rfl
@[simp] theorem State.withImgdim_bits (v : Word) : (s.withImgdim v).bits = s.bits := rfl
@[simp] theorem State.withImgdim_pix (v : Word) : (s.withImgdim v).pix = s.pix := rfl
@[simp] theorem State.withImgdim_agenda (v : Word) : (s.withImgdim v).agenda = s.agenda := rfl
@[simp] theorem State.withImgdim_reply (v : Word) : (s.withImgdim v).reply = s.reply := rfl

/-! `State.withAlpha` -/

@[simp] theorem State.withAlpha_priv (v : Bool) : (s.withAlpha v).priv = s.priv := rfl
@[simp] theorem State.withAlpha_pub (v : Bool) : (s.withAlpha v).pub = s.pub := rfl
@[simp] theorem State.withAlpha_secret (v : Bool) : (s.withAlpha v).secret = s.secret := rfl
@[simp] theorem State.withAlpha_kind (v : Bool) : (s.withAlpha v).kind = s.kind := rfl
@[simp] theorem State.withAlpha_msglen (v : Bool) : (s.withAlpha v).msglen = s.msglen := rfl
@[simp] theorem State.withAlpha_bitlen (v : Bool) : (s.withAlpha v).bitlen = s.bitlen := rfl
@[simp] theorem State.withAlpha_maxbits (v : Bool) : (s.withAlpha v).maxbits = s.maxbits := rfl
@[simp] theorem State.withAlpha_imgdim (v : Bool) : (s.withAlpha v).imgdim = s.imgdim := rfl
@[simp] theorem State.withAlpha_alpha (v : Bool) : (s.withAlpha v).alpha = v := rfl
@[simp] theorem State.withAlpha_ie (v : Bool) : (s.withAlpha v).ie = s.ie := rfl
@[simp] theorem State.withAlpha_busy (v : Bool) : (s.withAlpha v).busy = s.busy := rfl
@[simp] theorem State.withAlpha_done (v : Bool) : (s.withAlpha v).done = s.done := rfl
@[simp] theorem State.withAlpha_err (v : Bool) : (s.withAlpha v).err = s.err := rfl
@[simp] theorem State.withAlpha_cmd (v : Bool) : (s.withAlpha v).cmd = s.cmd := rfl
@[simp] theorem State.withAlpha_reqbits (v : Bool) : (s.withAlpha v).reqbits = s.reqbits := rfl
@[simp] theorem State.withAlpha_availbits (v : Bool) : (s.withAlpha v).availbits = s.availbits := rfl
@[simp] theorem State.withAlpha_msg (v : Bool) : (s.withAlpha v).msg = s.msg := rfl
@[simp] theorem State.withAlpha_bits (v : Bool) : (s.withAlpha v).bits = s.bits := rfl
@[simp] theorem State.withAlpha_pix (v : Bool) : (s.withAlpha v).pix = s.pix := rfl
@[simp] theorem State.withAlpha_agenda (v : Bool) : (s.withAlpha v).agenda = s.agenda := rfl
@[simp] theorem State.withAlpha_reply (v : Bool) : (s.withAlpha v).reply = s.reply := rfl

/-! `State.withIe` -/

@[simp] theorem State.withIe_priv (v : Bool) : (s.withIe v).priv = s.priv := rfl
@[simp] theorem State.withIe_pub (v : Bool) : (s.withIe v).pub = s.pub := rfl
@[simp] theorem State.withIe_secret (v : Bool) : (s.withIe v).secret = s.secret := rfl
@[simp] theorem State.withIe_kind (v : Bool) : (s.withIe v).kind = s.kind := rfl
@[simp] theorem State.withIe_msglen (v : Bool) : (s.withIe v).msglen = s.msglen := rfl
@[simp] theorem State.withIe_bitlen (v : Bool) : (s.withIe v).bitlen = s.bitlen := rfl
@[simp] theorem State.withIe_maxbits (v : Bool) : (s.withIe v).maxbits = s.maxbits := rfl
@[simp] theorem State.withIe_imgdim (v : Bool) : (s.withIe v).imgdim = s.imgdim := rfl
@[simp] theorem State.withIe_alpha (v : Bool) : (s.withIe v).alpha = s.alpha := rfl
@[simp] theorem State.withIe_ie (v : Bool) : (s.withIe v).ie = v := rfl
@[simp] theorem State.withIe_busy (v : Bool) : (s.withIe v).busy = s.busy := rfl
@[simp] theorem State.withIe_done (v : Bool) : (s.withIe v).done = s.done := rfl
@[simp] theorem State.withIe_err (v : Bool) : (s.withIe v).err = s.err := rfl
@[simp] theorem State.withIe_cmd (v : Bool) : (s.withIe v).cmd = s.cmd := rfl
@[simp] theorem State.withIe_reqbits (v : Bool) : (s.withIe v).reqbits = s.reqbits := rfl
@[simp] theorem State.withIe_availbits (v : Bool) : (s.withIe v).availbits = s.availbits := rfl
@[simp] theorem State.withIe_msg (v : Bool) : (s.withIe v).msg = s.msg := rfl
@[simp] theorem State.withIe_bits (v : Bool) : (s.withIe v).bits = s.bits := rfl
@[simp] theorem State.withIe_pix (v : Bool) : (s.withIe v).pix = s.pix := rfl
@[simp] theorem State.withIe_agenda (v : Bool) : (s.withIe v).agenda = s.agenda := rfl
@[simp] theorem State.withIe_reply (v : Bool) : (s.withIe v).reply = s.reply := rfl

/-! `State.withMsg` -/

@[simp] theorem State.withMsg_priv (v : Buffer) : (s.withMsg v).priv = s.priv := rfl
@[simp] theorem State.withMsg_pub (v : Buffer) : (s.withMsg v).pub = s.pub := rfl
@[simp] theorem State.withMsg_secret (v : Buffer) : (s.withMsg v).secret = s.secret := rfl
@[simp] theorem State.withMsg_kind (v : Buffer) : (s.withMsg v).kind = s.kind := rfl
@[simp] theorem State.withMsg_msglen (v : Buffer) : (s.withMsg v).msglen = s.msglen := rfl
@[simp] theorem State.withMsg_bitlen (v : Buffer) : (s.withMsg v).bitlen = s.bitlen := rfl
@[simp] theorem State.withMsg_maxbits (v : Buffer) : (s.withMsg v).maxbits = s.maxbits := rfl
@[simp] theorem State.withMsg_imgdim (v : Buffer) : (s.withMsg v).imgdim = s.imgdim := rfl
@[simp] theorem State.withMsg_alpha (v : Buffer) : (s.withMsg v).alpha = s.alpha := rfl
@[simp] theorem State.withMsg_ie (v : Buffer) : (s.withMsg v).ie = s.ie := rfl
@[simp] theorem State.withMsg_busy (v : Buffer) : (s.withMsg v).busy = s.busy := rfl
@[simp] theorem State.withMsg_done (v : Buffer) : (s.withMsg v).done = s.done := rfl
@[simp] theorem State.withMsg_err (v : Buffer) : (s.withMsg v).err = s.err := rfl
@[simp] theorem State.withMsg_cmd (v : Buffer) : (s.withMsg v).cmd = s.cmd := rfl
@[simp] theorem State.withMsg_reqbits (v : Buffer) : (s.withMsg v).reqbits = s.reqbits := rfl
@[simp] theorem State.withMsg_availbits (v : Buffer) : (s.withMsg v).availbits = s.availbits := rfl
@[simp] theorem State.withMsg_msg (v : Buffer) : (s.withMsg v).msg = v := rfl
@[simp] theorem State.withMsg_bits (v : Buffer) : (s.withMsg v).bits = s.bits := rfl
@[simp] theorem State.withMsg_pix (v : Buffer) : (s.withMsg v).pix = s.pix := rfl
@[simp] theorem State.withMsg_agenda (v : Buffer) : (s.withMsg v).agenda = s.agenda := rfl
@[simp] theorem State.withMsg_reply (v : Buffer) : (s.withMsg v).reply = s.reply := rfl

/-! `State.withBits` -/

@[simp] theorem State.withBits_priv (v : Buffer) : (s.withBits v).priv = s.priv := rfl
@[simp] theorem State.withBits_pub (v : Buffer) : (s.withBits v).pub = s.pub := rfl
@[simp] theorem State.withBits_secret (v : Buffer) : (s.withBits v).secret = s.secret := rfl
@[simp] theorem State.withBits_kind (v : Buffer) : (s.withBits v).kind = s.kind := rfl
@[simp] theorem State.withBits_msglen (v : Buffer) : (s.withBits v).msglen = s.msglen := rfl
@[simp] theorem State.withBits_bitlen (v : Buffer) : (s.withBits v).bitlen = s.bitlen := rfl
@[simp] theorem State.withBits_maxbits (v : Buffer) : (s.withBits v).maxbits = s.maxbits := rfl
@[simp] theorem State.withBits_imgdim (v : Buffer) : (s.withBits v).imgdim = s.imgdim := rfl
@[simp] theorem State.withBits_alpha (v : Buffer) : (s.withBits v).alpha = s.alpha := rfl
@[simp] theorem State.withBits_ie (v : Buffer) : (s.withBits v).ie = s.ie := rfl
@[simp] theorem State.withBits_busy (v : Buffer) : (s.withBits v).busy = s.busy := rfl
@[simp] theorem State.withBits_done (v : Buffer) : (s.withBits v).done = s.done := rfl
@[simp] theorem State.withBits_err (v : Buffer) : (s.withBits v).err = s.err := rfl
@[simp] theorem State.withBits_cmd (v : Buffer) : (s.withBits v).cmd = s.cmd := rfl
@[simp] theorem State.withBits_reqbits (v : Buffer) : (s.withBits v).reqbits = s.reqbits := rfl
@[simp] theorem State.withBits_availbits (v : Buffer) : (s.withBits v).availbits = s.availbits := rfl
@[simp] theorem State.withBits_msg (v : Buffer) : (s.withBits v).msg = s.msg := rfl
@[simp] theorem State.withBits_bits (v : Buffer) : (s.withBits v).bits = v := rfl
@[simp] theorem State.withBits_pix (v : Buffer) : (s.withBits v).pix = s.pix := rfl
@[simp] theorem State.withBits_agenda (v : Buffer) : (s.withBits v).agenda = s.agenda := rfl
@[simp] theorem State.withBits_reply (v : Buffer) : (s.withBits v).reply = s.reply := rfl

/-! `State.withPix` -/

@[simp] theorem State.withPix_priv (v : Buffer) : (s.withPix v).priv = s.priv := rfl
@[simp] theorem State.withPix_pub (v : Buffer) : (s.withPix v).pub = s.pub := rfl
@[simp] theorem State.withPix_secret (v : Buffer) : (s.withPix v).secret = s.secret := rfl
@[simp] theorem State.withPix_kind (v : Buffer) : (s.withPix v).kind = s.kind := rfl
@[simp] theorem State.withPix_msglen (v : Buffer) : (s.withPix v).msglen = s.msglen := rfl
@[simp] theorem State.withPix_bitlen (v : Buffer) : (s.withPix v).bitlen = s.bitlen := rfl
@[simp] theorem State.withPix_maxbits (v : Buffer) : (s.withPix v).maxbits = s.maxbits := rfl
@[simp] theorem State.withPix_imgdim (v : Buffer) : (s.withPix v).imgdim = s.imgdim := rfl
@[simp] theorem State.withPix_alpha (v : Buffer) : (s.withPix v).alpha = s.alpha := rfl
@[simp] theorem State.withPix_ie (v : Buffer) : (s.withPix v).ie = s.ie := rfl
@[simp] theorem State.withPix_busy (v : Buffer) : (s.withPix v).busy = s.busy := rfl
@[simp] theorem State.withPix_done (v : Buffer) : (s.withPix v).done = s.done := rfl
@[simp] theorem State.withPix_err (v : Buffer) : (s.withPix v).err = s.err := rfl
@[simp] theorem State.withPix_cmd (v : Buffer) : (s.withPix v).cmd = s.cmd := rfl
@[simp] theorem State.withPix_reqbits (v : Buffer) : (s.withPix v).reqbits = s.reqbits := rfl
@[simp] theorem State.withPix_availbits (v : Buffer) : (s.withPix v).availbits = s.availbits := rfl
@[simp] theorem State.withPix_msg (v : Buffer) : (s.withPix v).msg = s.msg := rfl
@[simp] theorem State.withPix_bits (v : Buffer) : (s.withPix v).bits = s.bits := rfl
@[simp] theorem State.withPix_pix (v : Buffer) : (s.withPix v).pix = v := rfl
@[simp] theorem State.withPix_agenda (v : Buffer) : (s.withPix v).agenda = s.agenda := rfl
@[simp] theorem State.withPix_reply (v : Buffer) : (s.withPix v).reply = s.reply := rfl

/-! `State.withAgenda` -/

@[simp] theorem State.withAgenda_priv (v : List Event) : (s.withAgenda v).priv = s.priv := rfl
@[simp] theorem State.withAgenda_pub (v : List Event) : (s.withAgenda v).pub = s.pub := rfl
@[simp] theorem State.withAgenda_secret (v : List Event) : (s.withAgenda v).secret = s.secret := rfl
@[simp] theorem State.withAgenda_kind (v : List Event) : (s.withAgenda v).kind = s.kind := rfl
@[simp] theorem State.withAgenda_msglen (v : List Event) : (s.withAgenda v).msglen = s.msglen := rfl
@[simp] theorem State.withAgenda_bitlen (v : List Event) : (s.withAgenda v).bitlen = s.bitlen := rfl
@[simp] theorem State.withAgenda_maxbits (v : List Event) : (s.withAgenda v).maxbits = s.maxbits := rfl
@[simp] theorem State.withAgenda_imgdim (v : List Event) : (s.withAgenda v).imgdim = s.imgdim := rfl
@[simp] theorem State.withAgenda_alpha (v : List Event) : (s.withAgenda v).alpha = s.alpha := rfl
@[simp] theorem State.withAgenda_ie (v : List Event) : (s.withAgenda v).ie = s.ie := rfl
@[simp] theorem State.withAgenda_busy (v : List Event) : (s.withAgenda v).busy = s.busy := rfl
@[simp] theorem State.withAgenda_done (v : List Event) : (s.withAgenda v).done = s.done := rfl
@[simp] theorem State.withAgenda_err (v : List Event) : (s.withAgenda v).err = s.err := rfl
@[simp] theorem State.withAgenda_cmd (v : List Event) : (s.withAgenda v).cmd = s.cmd := rfl
@[simp] theorem State.withAgenda_reqbits (v : List Event) : (s.withAgenda v).reqbits = s.reqbits := rfl
@[simp] theorem State.withAgenda_availbits (v : List Event) : (s.withAgenda v).availbits = s.availbits := rfl
@[simp] theorem State.withAgenda_msg (v : List Event) : (s.withAgenda v).msg = s.msg := rfl
@[simp] theorem State.withAgenda_bits (v : List Event) : (s.withAgenda v).bits = s.bits := rfl
@[simp] theorem State.withAgenda_pix (v : List Event) : (s.withAgenda v).pix = s.pix := rfl
@[simp] theorem State.withAgenda_agenda (v : List Event) : (s.withAgenda v).agenda = v := rfl
@[simp] theorem State.withAgenda_reply (v : List Event) : (s.withAgenda v).reply = s.reply := rfl

/-! `State.withReply` -/

@[simp] theorem State.withReply_priv (r : Reply) : (s.withReply r).priv = s.priv := rfl
@[simp] theorem State.withReply_pub (r : Reply) : (s.withReply r).pub = s.pub := rfl
@[simp] theorem State.withReply_secret (r : Reply) : (s.withReply r).secret = s.secret := rfl
@[simp] theorem State.withReply_kind (r : Reply) : (s.withReply r).kind = s.kind := rfl
@[simp] theorem State.withReply_msglen (r : Reply) : (s.withReply r).msglen = s.msglen := rfl
@[simp] theorem State.withReply_bitlen (r : Reply) : (s.withReply r).bitlen = s.bitlen := rfl
@[simp] theorem State.withReply_maxbits (r : Reply) : (s.withReply r).maxbits = s.maxbits := rfl
@[simp] theorem State.withReply_imgdim (r : Reply) : (s.withReply r).imgdim = s.imgdim := rfl
@[simp] theorem State.withReply_alpha (r : Reply) : (s.withReply r).alpha = s.alpha := rfl
@[simp] theorem State.withReply_ie (r : Reply) : (s.withReply r).ie = s.ie := rfl
@[simp] theorem State.withReply_busy (r : Reply) : (s.withReply r).busy = s.busy := rfl
@[simp] theorem State.withReply_done (r : Reply) : (s.withReply r).done = s.done := rfl
@[simp] theorem State.withReply_err (r : Reply) : (s.withReply r).err = s.err := rfl
@[simp] theorem State.withReply_cmd (r : Reply) : (s.withReply r).cmd = s.cmd := rfl
@[simp] theorem State.withReply_reqbits (r : Reply) : (s.withReply r).reqbits = s.reqbits := rfl
@[simp] theorem State.withReply_availbits (r : Reply) : (s.withReply r).availbits = s.availbits := rfl
@[simp] theorem State.withReply_msg (r : Reply) : (s.withReply r).msg = s.msg := rfl
@[simp] theorem State.withReply_bits (r : Reply) : (s.withReply r).bits = s.bits := rfl
@[simp] theorem State.withReply_pix (r : Reply) : (s.withReply r).pix = s.pix := rfl
@[simp] theorem State.withReply_agenda (r : Reply) : (s.withReply r).agenda = s.agenda := rfl
@[simp] theorem State.withReply_reply (r : Reply) : (s.withReply r).reply = some r := rfl

/-! `issue` -/

@[simp] theorem issue_priv (w : Word) : (issue s w).priv = s.priv := rfl
@[simp] theorem issue_pub (w : Word) : (issue s w).pub = s.pub := rfl
@[simp] theorem issue_secret (w : Word) : (issue s w).secret = s.secret := rfl
@[simp] theorem issue_kind (w : Word) : (issue s w).kind = s.kind := rfl
@[simp] theorem issue_msglen (w : Word) : (issue s w).msglen = s.msglen := rfl
@[simp] theorem issue_bitlen (w : Word) : (issue s w).bitlen = s.bitlen := rfl
@[simp] theorem issue_maxbits (w : Word) : (issue s w).maxbits = s.maxbits := rfl
@[simp] theorem issue_imgdim (w : Word) : (issue s w).imgdim = s.imgdim := rfl
@[simp] theorem issue_alpha (w : Word) : (issue s w).alpha = s.alpha := rfl
@[simp] theorem issue_ie (w : Word) : (issue s w).ie = s.ie := rfl
@[simp] theorem issue_busy (w : Word) : (issue s w).busy = true := rfl
@[simp] theorem issue_done (w : Word) : (issue s w).done = false := rfl
@[simp] theorem issue_err (w : Word) : (issue s w).err = .ok := rfl
@[simp] theorem issue_cmd (w : Word) : (issue s w).cmd = w := rfl
@[simp] theorem issue_reqbits (w : Word) : (issue s w).reqbits = 0 := rfl
@[simp] theorem issue_availbits (w : Word) : (issue s w).availbits = 0 := rfl
@[simp] theorem issue_msg (w : Word) : (issue s w).msg = s.msg := rfl
@[simp] theorem issue_bits (w : Word) : (issue s w).bits = s.bits := rfl
@[simp] theorem issue_pix (w : Word) : (issue s w).pix = s.pix := rfl
@[simp] theorem issue_agenda (w : Word) : (issue s w).agenda = s.agenda := rfl
@[simp] theorem issue_reply (w : Word) : (issue s w).reply = s.reply := rfl

/-! `completeOk` -/

@[simp] theorem completeOk_priv : (completeOk s).priv = s.priv := rfl
@[simp] theorem completeOk_pub : (completeOk s).pub = s.pub := rfl
@[simp] theorem completeOk_secret : (completeOk s).secret = s.secret := rfl
@[simp] theorem completeOk_kind : (completeOk s).kind = s.kind := rfl
@[simp] theorem completeOk_msglen : (completeOk s).msglen = s.msglen := rfl
@[simp] theorem completeOk_bitlen : (completeOk s).bitlen = s.bitlen := rfl
@[simp] theorem completeOk_maxbits : (completeOk s).maxbits = s.maxbits := rfl
@[simp] theorem completeOk_imgdim : (completeOk s).imgdim = s.imgdim := rfl
@[simp] theorem completeOk_alpha : (completeOk s).alpha = s.alpha := rfl
@[simp] theorem completeOk_ie : (completeOk s).ie = s.ie := rfl
@[simp] theorem completeOk_busy : (completeOk s).busy = false := rfl
@[simp] theorem completeOk_done : (completeOk s).done = true := rfl
@[simp] theorem completeOk_err : (completeOk s).err = .ok := rfl
@[simp] theorem completeOk_cmd : (completeOk s).cmd = s.cmd := rfl
@[simp] theorem completeOk_reqbits : (completeOk s).reqbits = 0 := rfl
@[simp] theorem completeOk_availbits : (completeOk s).availbits = 0 := rfl
@[simp] theorem completeOk_msg : (completeOk s).msg = s.msg := rfl
@[simp] theorem completeOk_bits : (completeOk s).bits = s.bits := rfl
@[simp] theorem completeOk_pix : (completeOk s).pix = s.pix := rfl
@[simp] theorem completeOk_agenda : (completeOk s).agenda = s.agenda := rfl
@[simp] theorem completeOk_reply : (completeOk s).reply = s.reply := rfl

/-! `raiseError` -/

@[simp] theorem raiseError_priv (e : CmdError) : (raiseError s e).priv = s.priv := rfl
@[simp] theorem raiseError_pub (e : CmdError) : (raiseError s e).pub = s.pub := rfl
@[simp] theorem raiseError_secret (e : CmdError) : (raiseError s e).secret = s.secret := rfl
@[simp] theorem raiseError_kind (e : CmdError) : (raiseError s e).kind = s.kind := rfl
@[simp] theorem raiseError_msglen (e : CmdError) : (raiseError s e).msglen = s.msglen := rfl
@[simp] theorem raiseError_bitlen (e : CmdError) : (raiseError s e).bitlen = s.bitlen := rfl
@[simp] theorem raiseError_maxbits (e : CmdError) : (raiseError s e).maxbits = s.maxbits := rfl
@[simp] theorem raiseError_imgdim (e : CmdError) : (raiseError s e).imgdim = s.imgdim := rfl
@[simp] theorem raiseError_alpha (e : CmdError) : (raiseError s e).alpha = s.alpha := rfl
@[simp] theorem raiseError_ie (e : CmdError) : (raiseError s e).ie = s.ie := rfl
@[simp] theorem raiseError_busy (e : CmdError) : (raiseError s e).busy = false := rfl
@[simp] theorem raiseError_done (e : CmdError) : (raiseError s e).done = true := rfl
@[simp] theorem raiseError_err (e : CmdError) : (raiseError s e).err = e.code := rfl
@[simp] theorem raiseError_cmd (e : CmdError) : (raiseError s e).cmd = s.cmd := rfl
@[simp] theorem raiseError_reqbits (e : CmdError) : (raiseError s e).reqbits = e.req := rfl
@[simp] theorem raiseError_availbits (e : CmdError) : (raiseError s e).availbits = e.avail := rfl
@[simp] theorem raiseError_msg (e : CmdError) : (raiseError s e).msg = s.msg := rfl
@[simp] theorem raiseError_bits (e : CmdError) : (raiseError s e).bits = s.bits := rfl
@[simp] theorem raiseError_pix (e : CmdError) : (raiseError s e).pix = s.pix := rfl
@[simp] theorem raiseError_agenda (e : CmdError) : (raiseError s e).agenda = s.agenda := rfl
@[simp] theorem raiseError_reply (e : CmdError) : (raiseError s e).reply = s.reply := rfl

/-! `writeStatus` -/

@[simp] theorem writeStatus_priv (v : Word) : (writeStatus s v).priv = s.priv := rfl
@[simp] theorem writeStatus_pub (v : Word) : (writeStatus s v).pub = s.pub := rfl
@[simp] theorem writeStatus_secret (v : Word) : (writeStatus s v).secret = s.secret := rfl
@[simp] theorem writeStatus_kind (v : Word) : (writeStatus s v).kind = s.kind := rfl
@[simp] theorem writeStatus_msglen (v : Word) : (writeStatus s v).msglen = s.msglen := rfl
@[simp] theorem writeStatus_bitlen (v : Word) : (writeStatus s v).bitlen = s.bitlen := rfl
@[simp] theorem writeStatus_maxbits (v : Word) : (writeStatus s v).maxbits = s.maxbits := rfl
@[simp] theorem writeStatus_imgdim (v : Word) : (writeStatus s v).imgdim = s.imgdim := rfl
@[simp] theorem writeStatus_alpha (v : Word) : (writeStatus s v).alpha = s.alpha := rfl
@[simp] theorem writeStatus_ie (v : Word) : (writeStatus s v).ie = s.ie := rfl
@[simp] theorem writeStatus_busy (v : Word) : (writeStatus s v).busy = s.busy := rfl
@[simp] theorem writeStatus_done (v : Word) : (writeStatus s v).done = (s.done && !v[1]) := rfl
@[simp] theorem writeStatus_err (v : Word) : (writeStatus s v).err = s.err := rfl
@[simp] theorem writeStatus_cmd (v : Word) : (writeStatus s v).cmd = s.cmd := rfl
@[simp] theorem writeStatus_reqbits (v : Word) : (writeStatus s v).reqbits = s.reqbits := rfl
@[simp] theorem writeStatus_availbits (v : Word) : (writeStatus s v).availbits = s.availbits := rfl
@[simp] theorem writeStatus_msg (v : Word) : (writeStatus s v).msg = s.msg := rfl
@[simp] theorem writeStatus_bits (v : Word) : (writeStatus s v).bits = s.bits := rfl
@[simp] theorem writeStatus_pix (v : Word) : (writeStatus s v).pix = s.pix := rfl
@[simp] theorem writeStatus_agenda (v : Word) : (writeStatus s v).agenda = s.agenda := rfl
@[simp] theorem writeStatus_reply (v : Word) : (writeStatus s v).reply = s.reply := rfl

/-! `resetRegisters` -/

@[simp] theorem resetRegisters_priv : (resetRegisters s).priv = 0 := rfl
@[simp] theorem resetRegisters_pub : (resetRegisters s).pub = 0 := rfl
@[simp] theorem resetRegisters_secret : (resetRegisters s).secret = 0 := rfl
@[simp] theorem resetRegisters_kind : (resetRegisters s).kind = .text := rfl
@[simp] theorem resetRegisters_msglen : (resetRegisters s).msglen = 0 := rfl
@[simp] theorem resetRegisters_bitlen : (resetRegisters s).bitlen = 0 := rfl
@[simp] theorem resetRegisters_maxbits : (resetRegisters s).maxbits = 0 := rfl
@[simp] theorem resetRegisters_imgdim : (resetRegisters s).imgdim = 0 := rfl
@[simp] theorem resetRegisters_alpha : (resetRegisters s).alpha = false := rfl
@[simp] theorem resetRegisters_ie : (resetRegisters s).ie = false := rfl
@[simp] theorem resetRegisters_busy : (resetRegisters s).busy = false := rfl
@[simp] theorem resetRegisters_done : (resetRegisters s).done = false := rfl
@[simp] theorem resetRegisters_err : (resetRegisters s).err = .ok := rfl
@[simp] theorem resetRegisters_cmd : (resetRegisters s).cmd = 0 := rfl
@[simp] theorem resetRegisters_reqbits : (resetRegisters s).reqbits = 0 := rfl
@[simp] theorem resetRegisters_availbits : (resetRegisters s).availbits = 0 := rfl
@[simp] theorem resetRegisters_msg : (resetRegisters s).msg = s.msg := rfl
@[simp] theorem resetRegisters_bits : (resetRegisters s).bits = s.bits := rfl
@[simp] theorem resetRegisters_pix : (resetRegisters s).pix = s.pix := rfl
@[simp] theorem resetRegisters_agenda : (resetRegisters s).agenda = s.agenda := rfl
@[simp] theorem resetRegisters_reply : (resetRegisters s).reply = s.reply := rfl

/-! `State.withStream` and `State.withMessage` -/

@[simp] theorem State.withStream_priv (l : List Bool) : (s.withStream l).priv = s.priv := rfl
@[simp] theorem State.withStream_pub (l : List Bool) : (s.withStream l).pub = s.pub := rfl
@[simp] theorem State.withStream_secret (l : List Bool) : (s.withStream l).secret = s.secret := rfl
@[simp] theorem State.withStream_kind (l : List Bool) : (s.withStream l).kind = s.kind := rfl
@[simp] theorem State.withStream_msglen (l : List Bool) : (s.withStream l).msglen = s.msglen := rfl
@[simp] theorem State.withStream_bitlen (l : List Bool) : (s.withStream l).bitlen = BitVec.ofNat 32 l.length := rfl
@[simp] theorem State.withStream_maxbits (l : List Bool) : (s.withStream l).maxbits = s.maxbits := rfl
@[simp] theorem State.withStream_imgdim (l : List Bool) : (s.withStream l).imgdim = s.imgdim := rfl
@[simp] theorem State.withStream_alpha (l : List Bool) : (s.withStream l).alpha = s.alpha := rfl
@[simp] theorem State.withStream_ie (l : List Bool) : (s.withStream l).ie = s.ie := rfl
@[simp] theorem State.withStream_busy (l : List Bool) : (s.withStream l).busy = s.busy := rfl
@[simp] theorem State.withStream_done (l : List Bool) : (s.withStream l).done = s.done := rfl
@[simp] theorem State.withStream_err (l : List Bool) : (s.withStream l).err = s.err := rfl
@[simp] theorem State.withStream_cmd (l : List Bool) : (s.withStream l).cmd = s.cmd := rfl
@[simp] theorem State.withStream_reqbits (l : List Bool) : (s.withStream l).reqbits = s.reqbits := rfl
@[simp] theorem State.withStream_availbits (l : List Bool) : (s.withStream l).availbits = s.availbits := rfl
@[simp] theorem State.withStream_msg (l : List Bool) : (s.withStream l).msg = s.msg := rfl
@[simp] theorem State.withStream_bits (l : List Bool) : (s.withStream l).bits = writeStream s.bits l := rfl
@[simp] theorem State.withStream_pix (l : List Bool) : (s.withStream l).pix = s.pix := rfl
@[simp] theorem State.withStream_agenda (l : List Bool) : (s.withStream l).agenda = s.agenda := rfl
@[simp] theorem State.withStream_reply (l : List Bool) : (s.withStream l).reply = s.reply := rfl
@[simp] theorem State.withMessage_priv (m : List Byte) (k : Kind) : (s.withMessage m k).priv = s.priv := rfl
@[simp] theorem State.withMessage_pub (m : List Byte) (k : Kind) : (s.withMessage m k).pub = s.pub := rfl
@[simp] theorem State.withMessage_secret (m : List Byte) (k : Kind) : (s.withMessage m k).secret = s.secret := rfl
@[simp] theorem State.withMessage_kind (m : List Byte) (k : Kind) : (s.withMessage m k).kind = k := rfl
@[simp] theorem State.withMessage_msglen (m : List Byte) (k : Kind) : (s.withMessage m k).msglen = BitVec.ofNat 32 m.length := rfl
@[simp] theorem State.withMessage_bitlen (m : List Byte) (k : Kind) : (s.withMessage m k).bitlen = s.bitlen := rfl
@[simp] theorem State.withMessage_maxbits (m : List Byte) (k : Kind) : (s.withMessage m k).maxbits = s.maxbits := rfl
@[simp] theorem State.withMessage_imgdim (m : List Byte) (k : Kind) : (s.withMessage m k).imgdim = s.imgdim := rfl
@[simp] theorem State.withMessage_alpha (m : List Byte) (k : Kind) : (s.withMessage m k).alpha = s.alpha := rfl
@[simp] theorem State.withMessage_ie (m : List Byte) (k : Kind) : (s.withMessage m k).ie = s.ie := rfl
@[simp] theorem State.withMessage_busy (m : List Byte) (k : Kind) : (s.withMessage m k).busy = s.busy := rfl
@[simp] theorem State.withMessage_done (m : List Byte) (k : Kind) : (s.withMessage m k).done = s.done := rfl
@[simp] theorem State.withMessage_err (m : List Byte) (k : Kind) : (s.withMessage m k).err = s.err := rfl
@[simp] theorem State.withMessage_cmd (m : List Byte) (k : Kind) : (s.withMessage m k).cmd = s.cmd := rfl
@[simp] theorem State.withMessage_reqbits (m : List Byte) (k : Kind) : (s.withMessage m k).reqbits = s.reqbits := rfl
@[simp] theorem State.withMessage_availbits (m : List Byte) (k : Kind) : (s.withMessage m k).availbits = s.availbits := rfl
@[simp] theorem State.withMessage_msg (m : List Byte) (k : Kind) : (s.withMessage m k).msg = writeBytes s.msg 0 m := rfl
@[simp] theorem State.withMessage_bits (m : List Byte) (k : Kind) : (s.withMessage m k).bits = s.bits := rfl
@[simp] theorem State.withMessage_pix (m : List Byte) (k : Kind) : (s.withMessage m k).pix = s.pix := rfl
@[simp] theorem State.withMessage_agenda (m : List Byte) (k : Kind) : (s.withMessage m k).agenda = s.agenda := rfl
@[simp] theorem State.withMessage_reply (m : List Byte) (k : Kind) : (s.withMessage m k).reply = s.reply := rfl

/-! `State.buf` and `State.withBuf` -/

@[simp] theorem State.buf_msg : s.buf .msg = s.msg := rfl
@[simp] theorem State.buf_bits : s.buf .bits = s.bits := rfl
@[simp] theorem State.buf_pix : s.buf .pix = s.pix := rfl
@[simp] theorem State.withBuf_msg_eq (v : Buffer) : s.withBuf .msg v = s.withMsg v := rfl
@[simp] theorem State.withBuf_bits_eq (v : Buffer) : s.withBuf .bits v = s.withBits v := rfl
@[simp] theorem State.withBuf_pix_eq (v : Buffer) : s.withBuf .pix v = s.withPix v := rfl

@[simp] theorem State.buf_withBuf_self (sp : BufId) (v : Buffer) : (s.withBuf sp v).buf sp = v := by
  cases sp <;> rfl

theorem State.buf_withBuf_of_ne (sp sp' : BufId) (v : Buffer) (h : sp' ≠ sp) :
    (s.withBuf sp v).buf sp' = s.buf sp' := by
  cases sp <;> cases sp' <;> simp_all

end Sys2Proof.Machine
end

