-- ==== Sys2Proof/Laws/Memory.lean ====
section
/-! SUPPORT. What reading and writing buffer bytes do: a read after a write, the frame of a write, and the canonical
form kept by every memory operation (20_memory.md R66, R80; log entry 3). -/

namespace Sys2Proof.Machine

/-! ### The constants of this hardware -/

@[simp] theorem hw_G : hw.G = 9 := rfl
@[simp] theorem hw_P : hw.P = 23 := rfl
@[simp] theorem hw_pixBytes : hw.pixBytes = 262144 := rfl
@[simp] theorem hw_msgBytes : hw.msgBytes = 32768 := rfl
@[simp] theorem hw_bitsBits : hw.bitsBits = 262177 := rfl
@[simp] theorem hw_bitsBytes : hw.bitsBytes = 32773 := rfl
@[simp] theorem hw_ks : hw.ks = keystream := rfl
@[simp] theorem bufSize_msg : bufSize .msg = 32768 := rfl
@[simp] theorem bufSize_bits : bufSize .bits = 32773 := rfl
@[simp] theorem bufSize_pix : bufSize .pix = 262144 := rfl

/-! ### Cells -/

theorem getCell_putCell (a a' : Nat) (v : Byte) (l : List Host.Cell) :
    getCell a' (putCell a v l) = if a' = a then some v else getCell a' l := by
  induction l with
  | nil => simp [putCell, getCell]
  | cons c t ih =>
    obtain ⟨b, w⟩ := c
    simp only [putCell]
    split
    · simp [getCell]
    · split
      · rename_i h; subst h; simp only [getCell]; split <;> rfl
      · rename_i h1 h2
        simp only [getCell, ih]
        by_cases h : a' = a
        · subst h; simp [h2]
        · simp [h]

theorem risingBelow_putCell {size lo a : Nat} (v : Byte) {l : List Host.Cell}
    (h : risingBelow size lo l = true) (hlo : lo ≤ a) (ha : a < size) :
    risingBelow size lo (putCell a v l) = true := by
  induction l generalizing lo with
  | nil => simp [putCell, risingBelow, hlo, ha]
  | cons c t ih =>
    obtain ⟨b, w⟩ := c
    simp only [risingBelow, Bool.and_eq_true, decide_eq_true_eq] at h
    obtain ⟨⟨h1, h2⟩, h3⟩ := h
    simp only [putCell]
    split
    · rename_i hab
      simp only [risingBelow, Bool.and_eq_true, decide_eq_true_eq]
      exact ⟨⟨hlo, ha⟩, ⟨⟨by omega, h2⟩, h3⟩⟩
    · split
      · rename_i hab; subst hab
        simp only [risingBelow, Bool.and_eq_true, decide_eq_true_eq]
        exact ⟨⟨hlo, ha⟩, h3⟩
      · simp only [risingBelow, Bool.and_eq_true, decide_eq_true_eq]
        exact ⟨⟨h1, h2⟩, ih h3 (by omega)⟩

/-! ### Bytes -/

@[simp] theorem writeByte_epoch (buf : Buffer) (a : Nat) (v : Byte) : (writeByte buf a v).epoch = buf.epoch := rfl

@[simp] theorem scrub_epoch (buf : Buffer) : (scrub buf).epoch = buf.epoch + 1 := rfl

@[simp] theorem scrub_cells (buf : Buffer) : (scrub buf).cells = [] := rfl

theorem readByte_writeByte (sp : BufId) (buf : Buffer) (a a' : Nat) (v : Byte) :
    readByte sp (writeByte buf a v) a' = if a' = a then v else readByte sp buf a' := by
  simp only [readByte, writeByte, getCell_putCell]
  by_cases h : a' = a <;> simp [h]

@[simp] theorem readByte_writeByte_self (sp : BufId) (buf : Buffer) (a : Nat) (v : Byte) :
    readByte sp (writeByte buf a v) a = v := by
  simp [readByte_writeByte]

theorem readByte_writeByte_of_ne (sp : BufId) (buf : Buffer) {a a' : Nat} (v : Byte) (h : a' ≠ a) :
    readByte sp (writeByte buf a v) a' = readByte sp buf a' := by
  simp [readByte_writeByte, h]

@[simp] theorem writeBytes_epoch (buf : Buffer) (a : Nat) (l : List Byte) : (writeBytes buf a l).epoch = buf.epoch := by
  induction l generalizing buf a with
  | nil => rfl
  | cons v t ih => simp [writeBytes, ih]

/-- What a run of byte writes leaves at every address. -/
theorem readByte_writeBytes (sp : BufId) (buf : Buffer) (a a' : Nat) (l : List Byte) :
    readByte sp (writeBytes buf a l) a' =
      if h : a ≤ a' ∧ a' - a < l.length then l[a' - a]'h.2 else readByte sp buf a' := by
  induction l generalizing buf a with
  | nil => simp [writeBytes]
  | cons v t ih =>
    rw [writeBytes, ih]
    by_cases h1 : a + 1 ≤ a' ∧ a' - (a + 1) < t.length
    · have h2 : a ≤ a' ∧ a' - a < (v :: t).length := by simp only [List.length_cons]; omega
      rw [dif_pos h1, dif_pos h2]
      have : a' - a = (a' - (a + 1)) + 1 := by omega
      simp [this]
    · rw [dif_neg h1]
      by_cases h2 : a' = a
      · subst h2; simp
      · rw [readByte_writeByte_of_ne _ _ _ h2, dif_neg]
        simp only [List.length_cons]; omega

theorem readByte_writeBytes_zero_of_lt (sp : BufId) (buf : Buffer) {a : Nat} {l : List Byte} (h : a < l.length) :
    readByte sp (writeBytes buf 0 l) a = l[a] := by
  rw [readByte_writeBytes, dif_pos ⟨Nat.zero_le _, by simpa using h⟩]; simp

theorem readByte_writeBytes_zero_of_ge (sp : BufId) (buf : Buffer) {a : Nat} {l : List Byte} (h : l.length ≤ a) :
    readByte sp (writeBytes buf 0 l) a = readByte sp buf a := by
  rw [readByte_writeBytes, dif_neg (by omega)]

@[simp] theorem readBytes_length (sp : BufId) (buf : Buffer) (a n : Nat) : (readBytes sp buf a n).length = n := by
  simp [readBytes]

theorem readBytes_getElem (sp : BufId) (buf : Buffer) (a n i : Nat) (h : i < (readBytes sp buf a n).length) :
    (readBytes sp buf a n)[i] = readByte sp buf (a + i) := by
  simp [readBytes]

@[simp] theorem message_length (s : State) : s.message.length = s.msglen.toNat := by
  simp [State.message]

theorem message_getElem (s : State) (i : Nat) (h : i < s.message.length) :
    s.message[i] = readByte .msg s.msg i := by
  simp [State.message, readBytes_getElem]

/-! ### The canonical form -/

theorem writeByte_wf {size a : Nat} {buf : Buffer} (v : Byte) (h : buf.wf size = true) (ha : a < size) :
    (writeByte buf a v).wf size = true :=
  risingBelow_putCell v h (Nat.zero_le _) ha

theorem writeBytes_wf {size a : Nat} {buf : Buffer} (l : List Byte) (h : buf.wf size = true)
    (ha : a + l.length ≤ size) : (writeBytes buf a l).wf size = true := by
  induction l generalizing buf a with
  | nil => exact h
  | cons v t ih =>
    simp only [List.length_cons] at ha
    exact ih (writeByte_wf v h (by omega)) (by omega)

@[simp] theorem scrub_wf (size : Nat) (buf : Buffer) : (scrub buf).wf size = true := rfl

theorem reset_memWf : State.reset.memWf = true := rfl

end Sys2Proof.Machine
end

