-- ==== Sys2Proof/Laws/Bits.lean ====
section
/-! SUPPORT. Bits of bytes, of the length field and of the bitstream buffer: each packing undone by its unpacking
(20_memory.md R70, 30_encoding.md R100 to R106). -/

namespace Sys2Proof.Machine

/-! ### Naturals and their bits -/

theorem bitsToNat_append_singleton (l : List Bool) (b : Bool) :
    bitsToNat (l ++ [b]) = 2 * bitsToNat l + b.toNat := by
  simp [bitsToNat, List.foldl_append]

theorem bitsToNat_lt (l : List Bool) : bitsToNat l < 2 ^ l.length := by
  induction l using List.reverseRecOn with
  | nil => simp [bitsToNat]
  | append_singleton l b ih =>
    rw [bitsToNat_append_singleton, List.length_append, List.length_singleton, pow_succ]
    have : b.toNat ≤ 1 := Bool.toNat_le b
    omega

/-- The bit of weight `2^j` of a number read most significant bit first. -/
theorem testBit_bitsToNat (l : List Bool) (j : Nat) :
    (bitsToNat l).testBit j = if h : j < l.length then l[l.length - 1 - j] else false := by
  induction l using List.reverseRecOn generalizing j with
  | nil => simp [bitsToNat]
  | append_singleton l b ih =>
    rw [bitsToNat_append_singleton]
    cases j with
    | zero =>
      have : (2 * bitsToNat l + b.toNat).testBit 0 = b := by
        rw [Nat.testBit_zero]; cases b <;> simp
      simp [this]
    | succ j =>
      rw [Nat.testBit_succ]
      have h2 : (2 * bitsToNat l + b.toNat) / 2 = bitsToNat l := by
        have : b.toNat ≤ 1 := Bool.toNat_le b
        omega
      rw [h2, ih]
      by_cases h : j < l.length
      · rw [dif_pos h, dif_pos (by simpa using h)]
        rw [List.getElem_append_left (by simp; omega)]
        congr 1; simp; omega
      · rw [dif_neg h, dif_neg (by simpa using h)]

@[simp] theorem natBits_length (w n : Nat) : (natBits w n).length = w := by simp [natBits]

theorem natBits_getElem (w n i : Nat) (h : i < (natBits w n).length) :
    (natBits w n)[i] = n.testBit (w - 1 - i) := by simp [natBits]

theorem bitsToNat_natBits {w n : Nat} (h : n < 2 ^ w) : bitsToNat (natBits w n) = n := by
  apply Nat.eq_of_testBit_eq
  intro j
  rw [testBit_bitsToNat]
  by_cases hj : j < (natBits w n).length
  · rw [dif_pos hj, natBits_getElem]
    simp only [natBits_length] at hj ⊢
    congr 1; omega
  · rw [dif_neg hj, Nat.testBit_lt_two_pow]
    simp only [natBits_length] at hj
    exact lt_of_lt_of_le h (Nat.pow_le_pow_right (by omega) (by omega))

/-- Reading most significant bit first as a sum (30_encoding.md R106). -/
theorem bitsToNat_map_range (f : Nat → Bool) (n : Nat) :
    bitsToNat ((List.range n).map f) = ∑ i ∈ Finset.range n, (f i).toNat * 2 ^ (n - 1 - i) := by
  induction n with
  | zero => simp [bitsToNat]
  | succ n ih =>
    rw [List.range_succ, List.map_append, List.map_singleton, bitsToNat_append_singleton, ih,
      Finset.sum_range_succ, Finset.mul_sum]
    simp only [Nat.add_sub_cancel, Nat.sub_self, pow_zero, mul_one]
    congr 1
    refine Finset.sum_congr rfl fun i hi => ?_
    rw [Finset.mem_range] at hi
    have : n - i = (n - 1 - i) + 1 := by omega
    rw [this, pow_succ]; ring

/-! ### Bytes and their bits -/

@[simp] theorem byteBits_length (b : Byte) : (byteBits b).length = 8 := by simp [byteBits]

theorem byteBits_getElem (b : Byte) (t : Nat) (h : t < (byteBits b).length) :
    (byteBits b)[t] = b.getLsbD (7 - t) := by simp [byteBits]

/-- A bit of a byte assembled from a stream. -/
theorem bitsToByte_getLsbD (l : List Bool) (hl : l.length ≤ 8) {t : Nat} (ht : t < 8) :
    (bitsToByte l).getLsbD (7 - t) = l.getD t false := by
  have hlen : (l ++ List.replicate (8 - l.length) false).length = 8 := by simp; omega
  rw [bitsToByte, BitVec.getLsbD_ofNat, testBit_bitsToNat, dif_pos (by omega)]
  have e : (l ++ List.replicate (8 - l.length) false).length - 1 - (7 - t) = t := by omega
  simp only [e]
  by_cases h : t < l.length
  · rw [List.getElem_append_left h]; simp [h]; omega
  · rw [List.getElem_append_right (by omega)]; simp [h]

theorem byte_ext {a b : Byte} (h : ∀ t < 8, a.getLsbD (7 - t) = b.getLsbD (7 - t)) : a = b := by
  apply BitVec.eq_of_getLsbD_eq
  intro i hi
  have := h (7 - i) (by omega)
  rwa [show 7 - (7 - i) = i by omega] at this

theorem bitsToByte_byteBits (b : Byte) : bitsToByte (byteBits b) = b := by
  refine byte_ext fun t ht => ?_
  rw [bitsToByte_getLsbD _ (by simp) ht, List.getD_eq_getElem _ _ (by simpa using ht), byteBits_getElem]

/-! ### Streams as bytes -/

@[simp] theorem streamBytes_length (n : Nat) (l : List Bool) : (streamBytes n l).length = n := by
  induction n generalizing l with
  | zero => rfl
  | succ n ih => simp [streamBytes, ih]

theorem streamBytes_getElem (n : Nat) (l : List Bool) (j : Nat) (h : j < (streamBytes n l).length) :
    (streamBytes n l)[j] = bitsToByte ((l.drop (8 * j)).take 8) := by
  induction n generalizing l j with
  | zero => simp at h
  | succ n ih =>
    cases j with
    | zero => simp [streamBytes]
    | succ j =>
      simp only [streamBytes, List.getElem_cons_succ]
      rw [ih]
      simp [List.drop_drop, Nat.mul_add, Nat.add_comm]

/-- Bit `t` of byte `j` of a stream is stream bit `8j + t` (00_scope.md R13). -/
theorem streamBytes_getElem_getLsbD (n : Nat) (l : List Bool) (j t : Nat) (h : j < (streamBytes n l).length)
    (ht : t < 8) : ((streamBytes n l)[j]).getLsbD (7 - t) = l.getD (8 * j + t) false := by
  rw [streamBytes_getElem, bitsToByte_getLsbD _ (by simp) ht]
  simp only [List.getD_eq_getElem?_getD, List.getElem?_take, List.getElem?_drop, ht, if_true]

theorem streamBytes_flatMap_append (m : List Byte) (tail : List Bool) :
    streamBytes m.length (m.flatMap byteBits ++ tail) = m := by
  induction m with
  | nil => rfl
  | cons b t ih =>
    have e : (b :: t).flatMap byteBits ++ tail = byteBits b ++ (t.flatMap byteBits ++ tail) := by
      simp [List.flatMap_cons]
    rw [e, List.length_cons, streamBytes, List.take_left' (byteBits_length b), List.drop_left' (byteBits_length b),
      bitsToByte_byteBits, ih]

@[simp] theorem flatMap_byteBits_length (m : List Byte) : (m.flatMap byteBits).length = 8 * m.length := by
  induction m with
  | nil => rfl
  | cons b t ih => simp only [List.flatMap_cons, List.length_append, byteBits_length, ih, List.length_cons]; omega

theorem flatMap_byteBits_getD (m : List Byte) (j t : Nat) (hj : j < m.length) (ht : t < 8) :
    (m.flatMap byteBits).getD (8 * j + t) false = (m[j]).getLsbD (7 - t) := by
  have h := streamBytes_getElem_getLsbD m.length (m.flatMap byteBits ++ []) j t (by simpa using hj) ht
  simp only [streamBytes_flatMap_append] at h
  simpa using h.symm

/-! ### The bitstream buffer -/

theorem bitRead_writeStream (buf : Buffer) (l : List Bool) (k : Nat) (hk : k < 8 * ((l.length + 7) / 8)) :
    bitRead (writeStream buf l) k = l.getD k false := by
  have h : k / 8 < (streamBytes ((l.length + 7) / 8) l).length := by simp; omega
  rw [bitRead, writeStream, readByte_writeBytes_zero_of_lt _ _ h,
    streamBytes_getElem_getLsbD _ _ _ _ h (Nat.mod_lt _ (by omega)), Nat.div_add_mod]

theorem readByte_writeStream_of_ge (buf : Buffer) (l : List Bool) (a : Nat) (ha : (l.length + 7) / 8 ≤ a) :
    readByte .bits (writeStream buf l) a = readByte .bits buf a :=
  readByte_writeBytes_zero_of_ge _ _ (by simpa using ha)

@[simp] theorem writeStream_epoch (buf : Buffer) (l : List Bool) : (writeStream buf l).epoch = buf.epoch := by
  simp [writeStream]

theorem writeStream_wf {size : Nat} {buf : Buffer} (l : List Bool) (h : buf.wf size = true)
    (hl : l.length ≤ 8 * size) : (writeStream buf l).wf size = true :=
  writeBytes_wf _ h (by simp; omega)

@[simp] theorem readStream_length (buf : Buffer) (n : Nat) : (readStream buf n).length = n := by simp [readStream]

theorem readStream_getElem (buf : Buffer) (n k : Nat) (h : k < (readStream buf n).length) :
    (readStream buf n)[k] = bitRead buf k := by simp [readStream]

/-- A stream read back is the stream written. -/
theorem readStream_writeStream (buf : Buffer) (l : List Bool) :
    readStream (writeStream buf l) l.length = l := by
  apply List.ext_getElem (by simp)
  intro k h1 h2
  rw [readStream_getElem, bitRead_writeStream _ _ _ (by omega), List.getD_eq_getElem _ _ h2]

theorem setBit_getLsbD (v : Byte) {i : Nat} (j : Nat) (b : Bool) (hi : i < 8) :
    (setBit v i b).getLsbD j = if j = i then b else v.getLsbD j := by
  by_cases hj : j < 8
  · interval_cases i <;> interval_cases j <;> cases b <;> simp [setBit]
  · rw [if_neg (by omega), BitVec.getLsbD_of_ge _ _ (by omega), BitVec.getLsbD_of_ge _ _ (by omega)]

/-- A bit write replaces that one bit (20_memory.md R70). -/
theorem bitRead_bitWrite (buf : Buffer) (k k' : Nat) (b : Bool) :
    bitRead (bitWrite buf k b) k' = if k' = k then b else bitRead buf k' := by
  simp only [bitRead, bitWrite, readByte_writeByte]
  by_cases h : k' / 8 = k / 8
  · rw [if_pos h, setBit_getLsbD _ _ _ (by omega), h]
    by_cases h2 : k' = k
    · rw [if_pos (by omega), if_pos h2]
    · rw [if_neg (by omega), if_neg h2]
  · rw [if_neg h, if_neg (by rintro rfl; exact h rfl)]

/-! ### The frame -/

theorem frameBits_length (m : List Byte) (k : Kind) : (frameBits m k).length = frameLen m.length := by
  simp [frameBits, frameLen, Config.hdrBits]; omega

theorem frameBits_getD_length (m : List Byte) (k : Kind) {i : Nat} (hi : i < 32) :
    (frameBits m k).getD i false = m.length.testBit (31 - i) := by
  rw [frameBits, List.getD_append _ _ _ _ (by simpa using hi), List.getD_eq_getElem _ _ (by simpa using hi),
    natBits_getElem]

theorem frameBits_getD_kind (m : List Byte) (k : Kind) : (frameBits m k).getD 32 false = k.bit := by
  rw [frameBits, List.getD_append_right _ _ _ _ (by simp)]; simp

theorem frameBits_getD_payload (m : List Byte) (k : Kind) {j t : Nat} (hj : j < m.length) (ht : t < 8) :
    (frameBits m k).getD (33 + 8 * j + t) false = (m[j]).getLsbD (7 - t) := by
  rw [frameBits, List.getD_append_right _ _ _ _ (by simp; omega), natBits_length,
    show 33 + 8 * j + t - 32 = (8 * j + t) + 1 by omega, List.getD_cons_succ, flatMap_byteBits_getD _ _ _ hj ht]

@[simp] theorem Kind.ofBit_bit (k : Kind) : Kind.ofBit k.bit = k := by cases k <;> rfl

@[simp] theorem Kind.bit_ofBit (b : Bool) : (Kind.ofBit b).bit = b := by cases b <;> rfl

/-- When a stream is a frame, and of what (43_bitpacker.md R171). -/
theorem unframeBits_eq_some (l : List Bool) (m : List Byte) (k : Kind) :
    unframeBits l = some (m, k) ↔
      33 ≤ l.length ∧ 8 * bitsToNat (l.take 32) ≤ l.length - 33 ∧
        m = streamBytes (bitsToNat (l.take 32)) (l.drop 33) ∧ k = Kind.ofBit (l.getD 32 false) := by
  simp only [unframeBits, Config.hdrBits]
  by_cases h1 : l.length < 33
  · rw [if_pos h1]; simp; omega
  · rw [if_neg h1]
    by_cases h2 : 8 * bitsToNat (l.take 32) > l.length - 33
    · rw [if_pos h2]; simp; omega
    · rw [if_neg h2, Option.some.injEq, Prod.mk.injEq]
      constructor
      · rintro ⟨rfl, rfl⟩; exact ⟨by omega, by omega, rfl, rfl⟩
      · rintro ⟨-, -, rfl, rfl⟩; exact ⟨rfl, rfl⟩

theorem unframeBits_eq_none (l : List Bool) :
    unframeBits l = none ↔ l.length < 33 ∨ l.length - 33 < 8 * bitsToNat (l.take 32) := by
  simp only [unframeBits, Config.hdrBits]
  by_cases h1 : l.length < 33
  · simp [h1]
  · rw [if_neg h1]
    by_cases h2 : 8 * bitsToNat (l.take 32) > l.length - 33
    · simp [h2]
    · simp [h1, h2]

end Sys2Proof.Machine
end

