-- ==== Sys2Proof/Laws/Stego.lean ====
section
/-! SUPPORT. Positions, capacity, and what embedding and extracting do to every byte of an image (44_stegocodec.md R186
to R195), and the keyed transform and modular exponentiation. -/

namespace Sys2Proof.Machine

/-! ### Positions -/

theorem cpp_cases (s : State) : s.cpp = 3 ∨ s.cpp = 4 := by
  cases h : s.alpha <;> simp [State.cpp, h]

theorem cpp_ge (s : State) : 3 ≤ s.cpp := by rcases cpp_cases s with h | h <;> omega

theorem pos_lt_pos {cpp j k : Nat} (hc : 3 ≤ cpp) (h : j < k) : pos cpp j < pos cpp k := by
  simp only [pos]
  rcases Nat.lt_or_ge (j / 3) (k / 3) with hd | hd
  · have h1 : (j / 3 + 1) * cpp ≤ k / 3 * cpp := Nat.mul_le_mul_right _ hd
    have h2 : (j / 3 + 1) * cpp = j / 3 * cpp + cpp := by ring
    omega
  · have : j / 3 = k / 3 := by omega
    rw [this]; omega

theorem pos_injective {cpp j k : Nat} (hc : 3 ≤ cpp) (h : pos cpp j = pos cpp k) : j = k := by
  rcases Nat.lt_trichotomy j k with hl | he | hl
  · exact absurd (pos_lt_pos hc hl) (by omega)
  · exact he
  · exact absurd (pos_lt_pos hc hl) (by omega)

/-- A position of one of `N` pixels lies inside their bytes (44_stegocodec.md R187). -/
theorem pos_lt_of_lt {cpp k N : Nat} (hc : 3 ≤ cpp) (h : k < 3 * N) : pos cpp k < cpp * N := by
  have h1 : k / 3 + 1 ≤ N := by omega
  have h2 : (k / 3 + 1) * cpp ≤ N * cpp := Nat.mul_le_mul_right _ h1
  have h3 : (k / 3 + 1) * cpp = k / 3 * cpp + cpp := by ring
  have h4 : N * cpp = cpp * N := Nat.mul_comm _ _
  simp only [pos]; omega

/-- A position never is an alpha byte (44_stegocodec.md R185). -/
theorem pos_mod_four (k : Nat) : pos 4 k % 4 ≠ 3 := by simp only [pos]; omega

theorem cap_eq (s : State) : s.cap = 3 * (s.imgW * s.imgH) := by simp [State.cap, Nat.mul_assoc]

theorem geomOk_iff (s : State) : s.geomOk = true ↔ s.cpp * s.imgW * s.imgH ≤ 262144 := by
  simp [State.geomOk]

/-- With a valid geometry every position below the capacity is inside PIX (44_stegocodec.md R187). -/
theorem pos_lt_pixBytes {s : State} (hg : s.geomOk = true) {k : Nat} (hk : k < s.cap) : pos s.cpp k < 262144 := by
  rw [cap_eq] at hk
  have h1 := pos_lt_of_lt (cpp_ge s) hk
  have h2 := (geomOk_iff s).1 hg
  rw [Nat.mul_assoc] at h2
  omega

/-- With a valid geometry the capacity is at most `PIX_BYTES` (44_stegocodec.md R188). -/
theorem cap_le {s : State} (hg : s.geomOk = true) : s.cap ≤ 262144 := by
  have h2 := (geomOk_iff s).1 hg
  rw [Nat.mul_assoc] at h2
  rw [cap_eq]
  exact le_trans (Nat.mul_le_mul_right _ (cpp_ge s)) h2

/-! ### The least significant bit of a byte -/

theorem setLsb_getLsbD (v : Byte) (b : Bool) (i : Nat) :
    (setLsb v b).getLsbD i = if i = 0 then b else v.getLsbD i := by
  by_cases hi : i < 8
  · interval_cases i <;> cases b <;> simp [setLsb]
  · have h0 : i ≠ 0 := by omega
    rw [if_neg h0, BitVec.getLsbD_of_ge _ _ (by omega), BitVec.getLsbD_of_ge _ _ (by omega)]

theorem setLsb_setLsb (v : Byte) (b c : Bool) : setLsb (setLsb v b) c = setLsb v c := by
  apply BitVec.eq_of_getLsbD_eq
  intro i _
  simp only [setLsb_getLsbD]; split <;> rfl

/-- Setting the least significant bit changes the value by at most 1 (44_stegocodec.md R193). -/
theorem setLsb_near (v : Byte) (b : Bool) :
    (setLsb v b).toNat ≤ v.toNat + 1 ∧ v.toNat ≤ (setLsb v b).toNat + 1 := by
  revert v b; decide

/-! ### Embedding and extracting -/

@[simp] theorem putLsb_epoch (cpp : Nat) (pix : Buffer) (k : Nat) (b : Bool) :
    (putLsb cpp pix k b).epoch = pix.epoch := rfl

@[simp] theorem embedFrom_epoch (cpp : Nat) (pix : Buffer) (k : Nat) (l : List Bool) :
    (embedFrom cpp pix k l).epoch = pix.epoch := by
  induction l generalizing pix k with
  | nil => rfl
  | cons b t ih => simp [embedFrom, ih]

@[simp] theorem embedBits_epoch (cpp : Nat) (pix : Buffer) (l : List Bool) :
    (embedBits cpp pix l).epoch = pix.epoch := by simp [embedBits]

theorem readByte_embedFrom_of_ne {cpp : Nat} (pix : Buffer) (k : Nat) (l : List Bool) (a : Nat)
    (h : ∀ j < l.length, a ≠ pos cpp (k + j)) : readByte .pix (embedFrom cpp pix k l) a = readByte .pix pix a := by
  induction l generalizing pix k with
  | nil => rfl
  | cons b t ih =>
    rw [embedFrom, ih]
    · exact readByte_writeByte_of_ne _ _ _ (by simpa using h 0 (by simp))
    · intro j hj
      have := h (j + 1) (by simpa using hj)
      rwa [show k + (j + 1) = k + 1 + j by omega] at this

theorem readByte_embedFrom_pos {cpp : Nat} (hc : 3 ≤ cpp) (pix : Buffer) (k : Nat) (l : List Bool) (j : Nat)
    (hj : j < l.length) :
    readByte .pix (embedFrom cpp pix k l) (pos cpp (k + j)) = setLsb (readByte .pix pix (pos cpp (k + j))) l[j] := by
  induction l generalizing pix k j with
  | nil => simp at hj
  | cons b t ih =>
    rw [embedFrom]
    cases j with
    | zero =>
      rw [readByte_embedFrom_of_ne]
      · simp [putLsb]
      · intro j _ h
        have := pos_injective hc h
        omega
    | succ j =>
      have hj' : j < t.length := by simpa using hj
      have e : k + (j + 1) = k + 1 + j := by omega
      rw [e, ih _ _ _ hj']
      congr 1
      refine readByte_writeByte_of_ne _ _ _ fun h => ?_
      have := pos_injective hc h
      omega

/-- Embedding leaves every byte that carries no bit of the stream (44_stegocodec.md R195). -/
theorem readByte_embedBits_of_ne {cpp : Nat} (pix : Buffer) (l : List Bool) (a : Nat)
    (h : ∀ k < l.length, a ≠ pos cpp k) : readByte .pix (embedBits cpp pix l) a = readByte .pix pix a :=
  readByte_embedFrom_of_ne _ _ _ _ fun j hj => by simpa using h j hj

/-- Embedding replaces the least significant bit of every byte that carries one (44_stegocodec.md R195). -/
theorem readByte_embedBits_pos {cpp : Nat} (hc : 3 ≤ cpp) (pix : Buffer) (l : List Bool) (k : Nat)
    (hk : k < l.length) :
    readByte .pix (embedBits cpp pix l) (pos cpp k) = setLsb (readByte .pix pix (pos cpp k)) l[k] := by
  simpa [embedBits] using readByte_embedFrom_pos hc pix 0 l k hk

theorem lsbAt_embedBits {cpp : Nat} (hc : 3 ≤ cpp) (pix : Buffer) (l : List Bool) (k : Nat) :
    lsbAt cpp (embedBits cpp pix l) k = if h : k < l.length then l[k] else lsbAt cpp pix k := by
  split
  · rename_i h
    rw [lsbAt, readByte_embedBits_pos hc _ _ _ h, setLsb_getLsbD, if_pos rfl]
  · rename_i h
    rw [lsbAt, readByte_embedBits_of_ne, lsbAt]
    intro j hj he
    have := pos_injective hc he
    omega

@[simp] theorem extractBits_length (cpp : Nat) (pix : Buffer) (n : Nat) : (extractBits cpp pix n).length = n := by
  simp [extractBits]

theorem extractBits_getElem (cpp : Nat) (pix : Buffer) (n k : Nat) (h : k < (extractBits cpp pix n).length) :
    (extractBits cpp pix n)[k] = lsbAt cpp pix k := by simp [extractBits]

/-- What was embedded is extracted, followed by the carrier's own bits. -/
theorem extractBits_embedBits {cpp : Nat} (hc : 3 ≤ cpp) (pix : Buffer) (l : List Bool) (n : Nat)
    (hn : l.length ≤ n) : ∃ tail, extractBits cpp (embedBits cpp pix l) n = l ++ tail := by
  refine ⟨(extractBits cpp (embedBits cpp pix l) n).drop l.length, ?_⟩
  have h : (extractBits cpp (embedBits cpp pix l) n).take l.length = l := by
    apply List.ext_getElem (by simp [hn])
    intro k h1 h2
    rw [List.getElem_take, extractBits_getElem, lsbAt_embedBits hc, dif_pos h2]
  rw [← congrArg (· ++ _) h]
  simp

theorem embedFrom_wf {size cpp : Nat} {pix : Buffer} (k : Nat) (l : List Bool) (h : pix.wf size = true)
    (hp : ∀ j < l.length, pos cpp (k + j) < size) : (embedFrom cpp pix k l).wf size = true := by
  induction l generalizing pix k with
  | nil => exact h
  | cons b t ih =>
    refine ih (k + 1) (writeByte_wf _ h (by simpa using hp 0 (by simp))) fun j hj => ?_
    have := hp (j + 1) (by simpa using hj)
    rwa [show k + (j + 1) = k + 1 + j by omega] at this

theorem embedBits_wf {size cpp : Nat} {pix : Buffer} (l : List Bool) (h : pix.wf size = true)
    (hp : ∀ k < l.length, pos cpp k < size) : (embedBits cpp pix l).wf size = true :=
  embedFrom_wf 0 l h fun j hj => by simpa using hp j hj

/-! ### The keyed transform -/

@[simp] theorem transformFrom_length (ks : Nat → Nat → Byte) (s i : Nat) (l : List Byte) :
    (transformFrom ks s i l).length = l.length := by
  induction l generalizing i with
  | nil => rfl
  | cons b t ih => simp [transformFrom, ih]

theorem transformFrom_getElem (ks : Nat → Nat → Byte) (s i j : Nat) (l : List Byte)
    (h : j < (transformFrom ks s i l).length) :
    (transformFrom ks s i l)[j] = l[j]'(by simpa using h) ^^^ ks s (i + j) := by
  induction l generalizing i j with
  | nil => simp at h
  | cons b t ih =>
    cases j with
    | zero => simp [transformFrom]
    | succ j =>
      simp only [transformFrom, List.getElem_cons_succ]
      rw [ih]
      rw [show i + 1 + j = i + (j + 1) by omega]

@[simp] theorem transform_length (s : Nat) (l : List Byte) : (transform s l).length = l.length := by
  simp [transform, transformWith]

theorem transform_getElem (s j : Nat) (l : List Byte) (h : j < (transform s l).length) :
    (transform s l)[j] = l[j]'(by simpa using h) ^^^ keystream s j := by
  simp [transform, transformWith, transformFrom_getElem]

theorem keystream_eq (s i : Nat) : keystream s i = BitVec.ofNat 8 ((s + i) % 256) := by
  apply BitVec.eq_of_toNat_eq; simp [keystream]

/-! ### Modular exponentiation -/

theorem modpow_lt (b e : Nat) {m : Nat} (h : 0 < m) : modpow b e m < m := Nat.mod_lt _ h

theorem derivePublic_le (p : Word) : derivePublic p ≤ 22 :=
  Nat.le_of_lt_succ (modpow_lt hw.G p.toNat (by decide))

theorem deriveSecret_le (p q : Word) : deriveSecret p q ≤ 22 :=
  Nat.le_of_lt_succ (modpow_lt q.toNat p.toNat (by decide))

end Sys2Proof.Machine
end

