-- ==== Sys2Proof/Laws/Commands.lean ====
section
/-! SUPPORT. What each command can do, said once: `exec` is the completion of its outcome, and each outcome is its
success or one of its errors, with the checks as plain arithmetic (60_exceptions.md R235, R238, R245). -/

namespace Sys2Proof.Machine

/-- A command's meaning is the completion of its outcome (40_command_protocol.md R124). -/
theorem exec_eq (i : Instr) (s : State) : exec i s = .next (complete s (outcome s i)) := by cases i <;> rfl

/-- What a command's next state is. -/
theorem exec_eq_next {i : Instr} {s t : State} : exec i s = .next t ↔ t = complete s (outcome s i) := by
  rw [exec_eq, Host.Outcome.next.injEq, eq_comm]

@[simp] theorem complete_ok (s t : State) : complete s (.ok t) = completeOk t := rfl

@[simp] theorem complete_error (s : State) (e : CmdError) : complete s (.error e) = raiseError s e := rfl

/-- A command whose outcome is a success completes it. -/
theorem exec_ok {i : Instr} {s t : State} (h : outcome s i = .ok t) : exec i s = .next (completeOk t) := by
  rw [exec_eq, h, complete_ok]

/-- A command whose outcome is an error raises it. -/
theorem exec_error {i : Instr} {s : State} {e : CmdError} (h : outcome s i = .error e) :
    exec i s = .next (raiseError s e) := by
  rw [exec_eq, h, complete_error]

/-- The code is OK exactly after a success (60_exceptions.md R230). -/
theorem complete_err_ok_iff {s : State} {o : CmdOutcome} : (complete s o).err = .ok ↔ ∃ t, o = .ok t := by
  cases o with
  | ok t => simp
  | error e => cases e <;> simp [CmdError.code]

/-! ### Successes written out -/

theorem completeOk_withMsg (s : State) (b : Buffer) :
    completeOk (s.withMsg b) =
      { s with msg := b, err := .ok, reqbits := 0, availbits := 0, busy := false, done := true } := rfl

theorem completeOk_withPix (s : State) (b : Buffer) :
    completeOk (s.withPix b) =
      { s with pix := b, err := .ok, reqbits := 0, availbits := 0, busy := false, done := true } := rfl

theorem completeOk_withStream (s : State) (l : List Bool) :
    completeOk (s.withStream l) =
      { s with bits := writeStream s.bits l, bitlen := BitVec.ofNat 32 l.length, err := .ok, reqbits := 0,
               availbits := 0, busy := false, done := true } := rfl

theorem completeOk_withMessage (s : State) (m : List Byte) (k : Kind) :
    completeOk (s.withMessage m k) =
      { s with msg := writeBytes s.msg 0 m, msglen := BitVec.ofNat 32 m.length, kind := k, err := .ok, reqbits := 0,
               availbits := 0, busy := false, done := true } := rfl

/-- The stream a command wrote is the stream the next one reads. -/
theorem stream_completeOk_withStream (s : State) {l : List Bool} (h : l.length < 2 ^ 32) :
    (completeOk (s.withStream l)).stream = l := by
  simp only [State.stream, completeOk_bits, State.withStream_bits, completeOk_bitlen, State.withStream_bitlen,
    BitVec.toNat_ofNat, Nat.mod_eq_of_lt h]
  exact readStream_writeStream _ _

/-! ### The checks as arithmetic -/

theorem privOk_iff (v : Word) : privOk v = true ↔ 1 ≤ v.toNat ∧ v.toNat ≤ 22 := by simp [privOk]

theorem pubOk_iff (v : Word) : pubOk v = true ↔ v.toNat ≤ 22 := by simp [pubOk]

theorem secretOk_iff (v : Word) : secretOk v = true ↔ v.toNat ≤ 22 := by simp [secretOk]

theorem msglenOk_iff (s : State) : s.msglenOk = true ↔ s.msglen.toNat ≤ 32768 := by simp [State.msglenOk]

theorem bitlenOk_iff (s : State) : s.bitlenOk = true ↔ s.bitlen.toNat ≤ 262177 := by simp [State.bitlenOk]

theorem pairOk_iff (p q : Word) : pairOk p q = true ↔ q.toNat = 9 ^ p.toNat % 23 := by
  simp [pairOk, derivePublic, modpow]

theorem frameLen_eq (L : Nat) : frameLen L = 33 + 8 * L := rfl

@[simp] theorem stream_length (s : State) : s.stream.length = s.bitlen.toNat := by simp [State.stream]

theorem encodedFrame_length (s : State) : s.encodedFrame.length = 33 + 8 * s.msglen.toNat := by
  simp [State.encodedFrame, frameBits_length, frameLen_eq]

/-! ### Each outcome -/

theorem dpubOutcome_ok {s : State} (h : privOk s.priv = true) :
    dpubOutcome s = .ok (s.withPub (BitVec.ofNat 32 (derivePublic s.priv))) := by simp [dpubOutcome, h]

theorem dsecOutcome_ok {s : State} (h : privOk s.priv = true) (h' : pubOk s.pub = true) :
    dsecOutcome s = .ok (s.withSecret (BitVec.ofNat 32 (deriveSecret s.priv s.pub))) := by simp [dsecOutcome, h, h']

theorem xformOutcome_ok {s : State} (h : s.msglenOk = true) (h' : secretOk s.secret = true) :
    xformOutcome s = .ok (s.withMsg (writeBytes s.msg 0 (transform s.secret.toNat s.message))) := by
  simp [xformOutcome, h, h']

theorem frameOutcome_ok {s : State} (h : s.msglenOk = true) :
    frameOutcome s = .ok (s.withStream (frameBits s.message s.kind)) := by simp [frameOutcome, h]

theorem unframeOutcome_ok {s : State} {m : List Byte} {k : Kind} (h : s.bitlenOk = true)
    (h' : unframeBits s.stream = some (m, k)) : unframeOutcome s = .ok (s.withMessage m k) := by
  simp [unframeOutcome, h, h']

theorem embedOutcome_ok {s : State} (h : s.bitlenOk = true) (hg : s.geomOk = true) (hc : s.bitlen.toNat ≤ s.cap) :
    embedOutcome s = .ok (s.withPix (embedBits s.cpp s.pix s.stream)) := by
  have : ¬s.bitlen.toNat > s.cap := by omega
  simp [embedOutcome, h, hg, this]

theorem extractOutcome_ok {s : State} (hg : s.geomOk = true) :
    extractOutcome s = .ok (s.withStream (extractBits s.cpp s.pix s.extractLen)) := by simp [extractOutcome, hg]

theorem encodeOutcome_ok {s : State} (h : s.msglenOk = true) (hg : s.geomOk = true) (hp : privOk s.priv = true)
    (hq : pubOk s.pub = true) (hc : frameLen s.msglen.toNat ≤ s.cap) :
    encodeOutcome s = .ok (s.withPix (embedBits s.cpp s.pix s.encodedFrame)) := by
  have : ¬frameLen s.msglen.toNat > s.cap := by omega
  simp [encodeOutcome, h, hg, hp, hq, this]

theorem decodeOutcome_ok {s : State} {c : List Byte} {k : Kind} (hg : s.geomOk = true) (hp : privOk s.priv = true)
    (hq : pubOk s.pub = true) (hpair : pairOk s.priv s.pub = true)
    (h : unframeBits (extractBits s.cpp s.pix s.cap) = some (c, k)) :
    decodeOutcome s = .ok (s.withMessage (transform (deriveSecret s.priv s.pub) c) k) := by
  simp [decodeOutcome, hg, hp, hq, hpair, h]

/-- A command's success, with everything its checks and stages give: its next state before completion is `t`. -/
inductive Succeeds (s : State) : Instr → State → Prop
  | dpub : privOk s.priv = true → Succeeds s .dpub (s.withPub (BitVec.ofNat 32 (derivePublic s.priv)))
  | dsec : privOk s.priv = true → pubOk s.pub = true →
      Succeeds s .dsec (s.withSecret (BitVec.ofNat 32 (deriveSecret s.priv s.pub)))
  | xform : s.msglenOk = true → secretOk s.secret = true →
      Succeeds s .xform (s.withMsg (writeBytes s.msg 0 (transform s.secret.toNat s.message)))
  | frame : s.msglenOk = true → Succeeds s .frame (s.withStream (frameBits s.message s.kind))
  | unframe (m : List Byte) (k : Kind) : s.bitlenOk = true → unframeBits s.stream = some (m, k) →
      Succeeds s .unframe (s.withMessage m k)
  | embed : s.bitlenOk = true → s.geomOk = true → s.bitlen.toNat ≤ s.cap →
      Succeeds s .embed (s.withPix (embedBits s.cpp s.pix s.stream))
  | extract : s.geomOk = true → Succeeds s .extract (s.withStream (extractBits s.cpp s.pix s.extractLen))
  | encode : s.msglenOk = true → s.geomOk = true → privOk s.priv = true → pubOk s.pub = true →
      frameLen s.msglen.toNat ≤ s.cap → Succeeds s .encode (s.withPix (embedBits s.cpp s.pix s.encodedFrame))
  | decode (c : List Byte) (k : Kind) : s.geomOk = true → privOk s.priv = true → pubOk s.pub = true →
      pairOk s.priv s.pub = true → unframeBits (extractBits s.cpp s.pix s.cap) = some (c, k) →
      Succeeds s .decode (s.withMessage (transform (deriveSecret s.priv s.pub) c) k)

/-- A command's error, with what makes it that error (60_exceptions.md R235, R238). -/
inductive Fails (s : State) : Instr → CmdError → Prop
  | dpub : privOk s.priv = false → Fails s .dpub .invalidKeyRange
  | dsec : (privOk s.priv && pubOk s.pub) = false → Fails s .dsec .invalidKeyRange
  | xform : (s.msglenOk && secretOk s.secret) = false → Fails s .xform .badOperand
  | frame : s.msglenOk = false → Fails s .frame .badOperand
  | unframeOperand : s.bitlenOk = false → Fails s .unframe .badOperand
  | unframeFrame : s.bitlenOk = true → unframeBits s.stream = none → Fails s .unframe .malformedFrame
  | embedOperand : (s.bitlenOk && s.geomOk) = false → Fails s .embed .badOperand
  | embedCapacity : s.bitlenOk = true → s.geomOk = true → s.cap < s.bitlen.toNat →
      Fails s .embed (.insufficientCapacity s.bitlen.toNat s.cap)
  | extract : s.geomOk = false → Fails s .extract .badOperand
  | encodeOperand : (s.msglenOk && s.geomOk) = false → Fails s .encode .badOperand
  | encodeKey : s.msglenOk = true → s.geomOk = true → (privOk s.priv && pubOk s.pub) = false →
      Fails s .encode .invalidKeyRange
  | encodeCapacity : s.msglenOk = true → s.geomOk = true → privOk s.priv = true → pubOk s.pub = true →
      s.cap < frameLen s.msglen.toNat →
      Fails s .encode (.insufficientCapacity (frameLen s.msglen.toNat) s.cap)
  | decodeOperand : s.geomOk = false → Fails s .decode .badOperand
  | decodeKey : s.geomOk = true → (privOk s.priv && pubOk s.pub) = false → Fails s .decode .invalidKeyRange
  | decodePair : s.geomOk = true → privOk s.priv = true → pubOk s.pub = true → pairOk s.priv s.pub = false →
      Fails s .decode .malformedFrame
  | decodeFrame : s.geomOk = true → privOk s.priv = true → pubOk s.pub = true → pairOk s.priv s.pub = true →
      unframeBits (extractBits s.cpp s.pix s.cap) = none → Fails s .decode .malformedFrame

/-- Everything a command can do: succeed or fail, in one of the ways listed. -/
theorem outcome_cases (s : State) (i : Instr) :
    (∃ t, outcome s i = .ok t ∧ Succeeds s i t) ∨ (∃ e, outcome s i = .error e ∧ Fails s i e) := by
  cases i with
  | dpub =>
    cases h : privOk s.priv
    · exact .inr ⟨_, by simp [outcome, dpubOutcome, h], .dpub h⟩
    · exact .inl ⟨_, dpubOutcome_ok h, .dpub h⟩
  | dsec =>
    cases h : privOk s.priv
    · exact .inr ⟨_, by simp [outcome, dsecOutcome, h], .dsec (by simp [h])⟩
    · cases h' : pubOk s.pub
      · exact .inr ⟨_, by simp [outcome, dsecOutcome, h, h'], .dsec (by simp [h'])⟩
      · exact .inl ⟨_, dsecOutcome_ok h h', .dsec h h'⟩
  | xform =>
    cases h : s.msglenOk
    · exact .inr ⟨_, by simp [outcome, xformOutcome, h], .xform (by simp [h])⟩
    · cases h' : secretOk s.secret
      · exact .inr ⟨_, by simp [outcome, xformOutcome, h, h'], .xform (by simp [h'])⟩
      · exact .inl ⟨_, xformOutcome_ok h h', .xform h h'⟩
  | frame =>
    cases h : s.msglenOk
    · exact .inr ⟨_, by simp [outcome, frameOutcome, h], .frame h⟩
    · exact .inl ⟨_, frameOutcome_ok h, .frame h⟩
  | unframe =>
    cases h : s.bitlenOk
    · exact .inr ⟨_, by simp [outcome, unframeOutcome, h], .unframeOperand h⟩
    · rcases h' : unframeBits s.stream with _ | ⟨m, k⟩
      · exact .inr ⟨_, by simp [outcome, unframeOutcome, h, h'], .unframeFrame h h'⟩
      · exact .inl ⟨_, unframeOutcome_ok h h', .unframe m k h h'⟩
  | embed =>
    cases h : s.bitlenOk
    · exact .inr ⟨_, by simp [outcome, embedOutcome, h], .embedOperand (by simp [h])⟩
    · cases hg : s.geomOk
      · exact .inr ⟨_, by simp [outcome, embedOutcome, h, hg], .embedOperand (by simp [hg])⟩
      · rcases Nat.lt_or_ge s.cap s.bitlen.toNat with hc | hc
        · exact .inr ⟨_, by simp [outcome, embedOutcome, h, hg, hc], .embedCapacity h hg hc⟩
        · exact .inl ⟨_, embedOutcome_ok h hg hc, .embed h hg hc⟩
  | extract =>
    cases hg : s.geomOk
    · exact .inr ⟨_, by simp [outcome, extractOutcome, hg], .extract hg⟩
    · exact .inl ⟨_, extractOutcome_ok hg, .extract hg⟩
  | encode =>
    cases h : s.msglenOk
    · exact .inr ⟨_, by simp [outcome, encodeOutcome, h], .encodeOperand (by simp [h])⟩
    · cases hg : s.geomOk
      · exact .inr ⟨_, by simp [outcome, encodeOutcome, h, hg], .encodeOperand (by simp [hg])⟩
      · cases hp : privOk s.priv
        · exact .inr ⟨_, by simp [outcome, encodeOutcome, h, hg, hp], .encodeKey h hg (by simp [hp])⟩
        · cases hq : pubOk s.pub
          · exact .inr ⟨_, by simp [outcome, encodeOutcome, h, hg, hp, hq], .encodeKey h hg (by simp [hq])⟩
          · rcases Nat.lt_or_ge s.cap (frameLen s.msglen.toNat) with hc | hc
            · exact .inr ⟨_, by simp [outcome, encodeOutcome, h, hg, hp, hq, hc], .encodeCapacity h hg hp hq hc⟩
            · exact .inl ⟨_, encodeOutcome_ok h hg hp hq hc, .encode h hg hp hq hc⟩
  | decode =>
    cases hg : s.geomOk
    · exact .inr ⟨_, by simp [outcome, decodeOutcome, hg], .decodeOperand hg⟩
    · cases hp : privOk s.priv
      · exact .inr ⟨_, by simp [outcome, decodeOutcome, hg, hp], .decodeKey hg (by simp [hp])⟩
      · cases hq : pubOk s.pub
        · exact .inr ⟨_, by simp [outcome, decodeOutcome, hg, hp, hq], .decodeKey hg (by simp [hq])⟩
        · cases hpair : pairOk s.priv s.pub
          · exact .inr ⟨_, by simp [outcome, decodeOutcome, hg, hp, hq, hpair], .decodePair hg hp hq hpair⟩
          · rcases h : unframeBits (extractBits s.cpp s.pix s.cap) with _ | ⟨c, k⟩
            · exact .inr ⟨_, by simp [outcome, decodeOutcome, hg, hp, hq, hpair, h], .decodeFrame hg hp hq hpair h⟩
            · exact .inl ⟨_, decodeOutcome_ok hg hp hq hpair h, .decode c k hg hp hq hpair h⟩

end Sys2Proof.Machine
end

