-- ==== Sys2Proof/Laws/Bus.lean ====
section
/-! SUPPORT. The address map, what a bus transaction can do, what a step can do, each said once (20_memory.md R61 to
R66, 40_command_protocol.md R126). -/

namespace Sys2Proof.Machine

/-! ### The address map -/

theorem regOffset_injective {r r' : Reg} (h : regOffset r = regOffset r') : r = r' := by
  cases r <;> cases r' <;> first | rfl | (exact absurd h (by decide))

@[simp] theorem regAt_regOffset (r : Reg) : regAt (regOffset r) = some r := by cases r <;> rfl

theorem regAt_eq_some {off : Nat} {r : Reg} : regAt off = some r ↔ regOffset r = off := by
  constructor
  · intro h
    simpa using List.find?_some h
  · rintro rfl; exact regAt_regOffset r

theorem regOffset_lt (r : Reg) : regOffset r < 0x1000 := by cases r <;> decide

@[simp] theorem regionOf_regOffset (r : Reg) : regionOf (regOffset r) = .regs (regOffset r) := by
  rw [regionOf, if_pos (regOffset_lt r)]

theorem inBuffer_iff (sp : BufId) (a : Nat) :
    inBuffer sp a = true ↔ bufBase sp ≤ a ∧ a < bufBase sp + bufSize sp := by simp [inBuffer]

/-- The region of each byte of a buffer (20_memory.md R61). -/
theorem regionOf_buffer (sp : BufId) {i : Nat} (h : i < bufSize sp) : regionOf (bufBase sp + i) = .buffer sp i := by
  cases sp <;> simp only [bufSize_msg, bufSize_bits, bufSize_pix] at h <;>
    simp only [regionOf, inBuffer_iff, bufBase, bufSize_msg, bufSize_bits, bufSize_pix]
  · rw [if_neg (by omega), if_pos (by omega)]; simp
  · rw [if_neg (by omega), if_neg (by omega), if_pos (by omega)]; simp
  · rw [if_neg (by omega), if_neg (by omega), if_neg (by omega), if_pos (by omega)]; simp

/-- Everything a bus address can be (20_memory.md R61). -/
theorem regionOf_cases (a : Nat) :
    (a < 0x1000 ∧ regionOf a = .regs a) ∨
      (∃ sp, bufBase sp ≤ a ∧ a < bufBase sp + bufSize sp ∧ regionOf a = .buffer sp (a - bufBase sp)) ∨
      (0x1000 ≤ a ∧ (∀ sp, ¬(bufBase sp ≤ a ∧ a < bufBase sp + bufSize sp)) ∧ regionOf a = .unmapped) := by
  by_cases h0 : a < 0x1000
  · exact .inl ⟨h0, by rw [regionOf, if_pos h0]⟩
  · right
    by_cases h : ∃ sp, bufBase sp ≤ a ∧ a < bufBase sp + bufSize sp
    · obtain ⟨sp, h1, h2⟩ := h
      refine .inl ⟨sp, h1, h2, ?_⟩
      have := regionOf_buffer sp (i := a - bufBase sp) (by omega)
      rwa [show bufBase sp + (a - bufBase sp) = a by omega] at this
    · have h' : ∀ sp, ¬(bufBase sp ≤ a ∧ a < bufBase sp + bufSize sp) := fun sp hs => h ⟨sp, hs⟩
      refine .inr ⟨by omega, h', ?_⟩
      simp only [regionOf, inBuffer_iff]
      rw [if_neg h0, if_neg (h' .msg), if_neg (h' .bits), if_neg (h' .pix)]

/-! ### Transactions -/

/-- A register write that ends ok while busy is a write to `CTRL` (40_command_protocol.md R126). -/
theorem writeReg_busy {s : State} (h : s.busy = true) (r : Reg) (v : Word) :
    writeReg s r v = if r = .ctrl then some (writeCtrl s v) else none := by
  cases r <;> simp [writeReg, writeRegIdle, h]

theorem writeReg_idle {s : State} (h : s.busy = false) (r : Reg) (v : Word) :
    writeReg s r v = writeRegIdle s r v := by simp [writeReg, h]

/-- A read of an implemented register ends ok, idle or busy (40_command_protocol.md R126). -/
theorem busRead_reg (s : State) (r : Reg) : busRead s 32 (regOffset r) = .word (readReg s r) := by
  simp [busRead]

theorem busWrite_reg (s : State) (r : Reg) (v : Word) : busWrite s 32 (regOffset r) v.toNat = writeReg s r v := by
  simp [busWrite]

theorem busRead_buffer (s : State) (sp : BufId) {i : Nat} (h : i < bufSize sp) :
    busRead s 8 (bufBase sp + i) = if s.busy then .error else .byte (readByte sp (s.buf sp) i) := by
  cases hb : s.busy <;> simp [busRead, regionOf_buffer sp h, hb]

theorem busWrite_buffer (s : State) (sp : BufId) {i : Nat} (h : i < bufSize sp) (b : Byte) :
    busWrite s 8 (bufBase sp + i) b.toNat =
      if s.busy then none else some (s.withBuf sp (writeByte (s.buf sp) i b)) := by
  cases hb : s.busy <;> simp [busWrite, regionOf_buffer sp h, hb]

/-- Everything a read can be: a register, a byte of an idle block, or an error. -/
theorem busRead_cases (s : State) (bits a : Nat) :
    (∃ r, bits = 32 ∧ a = regOffset r ∧ busRead s bits a = .word (readReg s r)) ∨
      (∃ sp i, bits = 8 ∧ i < bufSize sp ∧ a = bufBase sp + i ∧ s.busy = false ∧
        busRead s bits a = .byte (readByte sp (s.buf sp) i)) ∨
      busRead s bits a = .error := by
  rcases regionOf_cases a with ⟨_, h⟩ | ⟨sp, h1, h2, h⟩ | ⟨_, _, h⟩ <;> simp only [busRead, h]
  · by_cases hb : bits = 32
    · rcases hr : regAt a with _ | r
      · simp [hb]
      · exact .inl ⟨r, hb, (regAt_eq_some.1 hr).symm, by simp [hb]⟩
    · simp [hb]
  · by_cases hb : bits = 8
    · cases hs : s.busy
      · exact .inr (.inl ⟨sp, a - bufBase sp, hb, by omega, by omega, rfl, by simp [hb]⟩)
      · simp [hb]
    · simp [hb]
  · simp

/-- Everything a write can be: a register write, a byte of an idle block, or an error. -/
theorem busWrite_cases (s : State) (bits a data : Nat) :
    (∃ r, bits = 32 ∧ a = regOffset r ∧ busWrite s bits a data = writeReg s r (BitVec.ofNat 32 data)) ∨
      (∃ sp i, bits = 8 ∧ i < bufSize sp ∧ a = bufBase sp + i ∧ s.busy = false ∧
        busWrite s bits a data = some (s.withBuf sp (writeByte (s.buf sp) i (BitVec.ofNat 8 data)))) ∨
      busWrite s bits a data = none := by
  rcases regionOf_cases a with ⟨_, h⟩ | ⟨sp, h1, h2, h⟩ | ⟨_, _, h⟩ <;> simp only [busWrite, h]
  · by_cases hb : bits = 32
    · rcases hr : regAt a with _ | r
      · simp [hb]
      · exact .inl ⟨r, hb, (regAt_eq_some.1 hr).symm, by simp [hb]⟩
    · simp [hb]
  · by_cases hb : bits = 8
    · cases hs : s.busy
      · exact .inr (.inl ⟨sp, a - bufBase sp, hb, by omega, by omega, rfl, by simp [hb]⟩)
      · simp [hb]
    · simp [hb]
  · simp

theorem ofNat_getElem_one (data : Nat) : (BitVec.ofNat 32 data)[1] = data.testBit 1 := by
  rw [BitVec.getElem_eq_testBit_toNat, BitVec.toNat_ofNat, Nat.testBit_mod_two_pow]; simp

/-- A transaction on a busy block that is no soft reset changes IE and the reply at most (40_command_protocol.md
R126). -/
theorem busStep_busy {s : State} (hb : s.busy = true) (x : BusTx)
    (hx : ∀ data, x = .write 32 0x008 data → data.testBit 1 = false) :
    ∃ b r, busStep s x = { s with ie := b, reply := some r } := by
  cases x with
  | read bits a => exact ⟨s.ie, _, rfl⟩
  | write bits a data =>
    simp only [busStep]
    rcases busWrite_cases s bits a data with ⟨r, rfl, rfl, h⟩ | ⟨sp, i, -, -, -, h, -⟩ | h
    · rw [h, writeReg_busy hb]
      by_cases hr : r = .ctrl
      · subst hr
        rw [if_pos rfl, writeCtrl, ofNat_getElem_one, hx data rfl]
        exact ⟨_, _, rfl⟩
      · rw [if_neg hr]; exact ⟨s.ie, _, rfl⟩
    · rw [hb] at h; cases h
    · rw [h]; exact ⟨s.ie, _, rfl⟩

/-! ### Resets -/

/-- What a soft reset leaves in each buffer (70_reset_and_hazards.md R263). -/
theorem softReset_buf (s : State) (sp : BufId) :
    (softReset s).buf sp =
      if s.busy = true ∧ abandonedBuffer s.cmd = some sp then scrub (s.buf sp) else s.buf sp := by
  unfold softReset
  cases hb : s.busy
  · cases sp <;> simp
  · rcases h : abandonedBuffer s.cmd with _ | sp'
    · cases sp <;> simp
    · cases sp <;> cases sp' <;> simp

/-- A soft reset is a register reset but for the buffers. -/
theorem softReset_eq (s : State) :
    softReset s = { resetRegisters s with
      msg := (softReset s).msg, bits := (softReset s).bits, pix := (softReset s).pix } := by
  unfold softReset
  cases hb : s.busy
  · rfl
  · rcases h : abandonedBuffer s.cmd with _ | sp
    · rfl
    · cases sp <;> rfl

theorem hardwareReset_buf (s : State) (sp : BufId) : (hardwareReset s).buf sp = scrub (s.buf sp) := by
  cases sp <;> rfl

/-! ### Steps -/

/-- The engine's turn: nothing while idle, else the completion of the latched word (40_command_protocol.md R124). -/
theorem engineStep_cases (s : State) :
    (s.busy = false ∧ engineStep s = .next s) ∨
      (∃ i, s.busy = true ∧ decode s.cmd = .ok i ∧ engineStep s = .next (complete s (outcome s i))) ∨
      (∃ e, s.busy = true ∧ decode s.cmd = .error e ∧ engineStep s = .next (raiseError s .illegalCommand)) := by
  cases hb : s.busy
  · exact .inl ⟨rfl, by simp [engineStep, hb]⟩
  · right
    rcases hd : decode s.cmd with e | i
    · exact .inr ⟨e, rfl, rfl, by simp [engineStep, hb, fetchWord, hd, execIllegal, completion]⟩
    · exact .inl ⟨i, rfl, rfl, by simp [engineStep, hb, fetchWord, hd, exec_eq]⟩

/-- Everything a step can do: the engine's turn, a bus transaction, or a hardware reset. -/
theorem step_cases (s : State) :
    (s.agenda = [] ∧ step s = engineStep s) ∨
      (∃ rest, s.agenda = .engine :: rest ∧ step s = engineStep (s.withAgenda rest)) ∨
      (∃ t rest, s.agenda = .bus t :: rest ∧ step s = .next (busStep (s.withAgenda rest) t)) ∨
      (∃ rest, s.agenda = .hwReset :: rest ∧ step s = .next (hardwareReset (s.withAgenda rest))) := by
  unfold step nextStep
  rcases h : s.agenda with _ | ⟨e, rest⟩
  · simp
  · cases e <;> simp [eventStep]

/-- One step of a run of the machine. -/
theorem core_run_succ {n : Nat} {s t : State} (h : step s = .next t) : core.run (n + 1) s = core.run n t := by
  have h' : core.step s = .next t := h
  simp only [Host.Core.run, h']

end Sys2Proof.Machine
end

