-- ==== Sys2Proof/Laws/PerInstr.lean ====
section
/-! SUPPORT. Facts made per instruction: each command's word is legal (30_encoding.md R91) and its ZERO field is 0
(R90). -/

namespace Sys2Proof.Laws.EncodesLegalWord

/-- The word of a well-formed command is legal and has a ZERO field of 0. -/
def Statement (i : Instr) : Prop :=
  i.wellFormed = true → legalWord (encode i) = true ∧ zeroField (encode i) = 0

theorem dpub : Statement .dpub := fun _ => by decide
theorem dsec : Statement .dsec := fun _ => by decide
theorem xform : Statement .xform := fun _ => by decide
theorem frame : Statement .frame := fun _ => by decide
theorem unframe : Statement .unframe := fun _ => by decide
theorem embed : Statement .embed := fun _ => by decide
theorem extract : Statement .extract := fun _ => by decide
theorem encode : Statement .encode := fun _ => by decide
theorem decode : Statement .decode := fun _ => by decide

end Sys2Proof.Laws.EncodesLegalWord
end

