-- ==== Sys2Proof/Tests/Slice0.lean ====
section
/-! SUPPORT. The model's own tests. The well-formedness smoke tests; decoding of words written out bit by bit from
30_encoding.md R90 to R92; single steps whose expected results are the spec's own vectors (95_test_vectors.md, the id in
each comment); and, for every obligation with hypotheses, a state or operands that meet them. -/

namespace Sys2Proof.Tests

open Sys2Proof.Machine

/-! ### Helpers -/

/-- A buffer that holds these bytes from address 0 on and nothing else. -/
def buf (bytes : List Byte) : Buffer := writeBytes { cells := [], epoch := 0 } 0 bytes

/-- The state a command leaves. -/
def after (i : Instr) (s : State) : State :=
  match exec i s with
  | .next t => t
  | .fault _ => s
  | .refused _ => s

/-- What STATUS reads as after a command. -/
def status (i : Instr) (s : State) : Word := readReg (after i s) .status

/-- The reply to a transaction on an idle or busy block. -/
def reply (s : State) (t : BusTx) : Option Reply := (busStep s t).reply

/-- The pair (6, 3) of the spec's scenario: its secret is 16. -/
def keyed : State := { State.reset with priv := 6, pub := 3 }

/-- The message "HI" under that pair. -/
def hi : State := { keyed with msg := buf [0x48, 0x49], msglen := 2, secret := 16 }

/-- The frame of "HI" ciphered with secret 16, 49 bits (V-UF-1). -/
def framed : State := { State.reset with bits := buf [0x00, 0x00, 0x00, 0x02, 0x2C, 0x2C, 0x00], bitlen := 49 }

/-- The 2 by 1 RGB image of V-EM-1 and the byte after it. -/
def small : State :=
  { State.reset with imgdim := 0x00010002, pix := buf [0x10, 0x11, 0x12, 0x13, 0x14, 0x15, 0xEE], bits := buf [0xB4] }

/-- A 17 by 1 image of black pixels but for the given positions (an RGB position is its address). -/
def black (ones : List Nat) : Buffer :=
  buf ((List.range 51).map fun a => if a ∈ ones then 0x01 else 0x00)

/-- Image A of V-DE-1: what V-EN-1 makes of "HI". -/
def imageA : State := { keyed with imgdim := 0x00010011, pix := black [30, 34, 36, 37, 42, 44, 45] }

/-- A command word in flight. -/
def inFlight (w : Word) : State := issue State.reset w

/-! ### Well-formedness smoke tests: each check refuses an ill-formed term -/

theorem test_instr_wellFormed : Instr.wellFormed .dpub = true := by decide
theorem test_legalWord_refuses_zero : legalWord 0x00000000 = false := by decide
theorem test_legalWord_refuses_ten : legalWord 0x0000000A = false := by decide
theorem test_legalWord_refuses_nonzero_field : legalWord 0x00000101 = false := by decide
theorem test_busTx_refuses_wide_data : BusTx.wellFormed (.write 8 0x10000 256) = false := by decide
theorem test_busTx_takes_byte : BusTx.wellFormed (.write 8 0x10000 255) = true := by decide
theorem test_params_refuse_large_image : Config.Params.wellFormed { hw with pixBytes := 262178 } = false := by decide
theorem test_params_refuse_modulus_one : Config.Params.wellFormed { hw with P := 1 } = false := by decide
theorem test_params_of_this_hardware : Config.Params.wellFormed hw = true := by decide
theorem test_memory_refuses_repeat : Buffer.wf 4 { cells := [(1, 0), (1, 0)], epoch := 0 } = false := by decide
theorem test_memory_refuses_outside : Buffer.wf 4 { cells := [(4, 0)], epoch := 0 } = false := by decide

/-! ### Decoding: words written out bit by bit, ZERO in bits 31:8 and OP in bits 7:0 (30_encoding.md R90, R92) -/

theorem test_decode_dpub : decode 0b00000000000000000000000000000001 = .ok .dpub := by decide
theorem test_decode_dsec : decode 0b00000000000000000000000000000010 = .ok .dsec := by decide
theorem test_decode_xform : decode 0b00000000000000000000000000000011 = .ok .xform := by decide
theorem test_decode_frame : decode 0b00000000000000000000000000000100 = .ok .frame := by decide
theorem test_decode_unframe : decode 0b00000000000000000000000000000101 = .ok .unframe := by decide
theorem test_decode_embed : decode 0b00000000000000000000000000000110 = .ok .embed := by decide
theorem test_decode_extract : decode 0b00000000000000000000000000000111 = .ok .extract := by decide
theorem test_decode_encode : decode 0b00000000000000000000000000001000 = .ok .encode := by decide
theorem test_decode_decode : decode 0b00000000000000000000000000001001 = .ok .decode := by decide
theorem test_decode_rejects_op_zero : decode 0x00000000 = .error (.reservedOp 0x00) := by decide
theorem test_decode_rejects_op_ten : decode 0x0000000A = .error (.reservedOp 0x0A) := by decide
theorem test_decode_rejects_zero_field : decode 0x00010001 = .error (.zeroFieldNotZero 0x000100) := by decide
theorem test_tableWord_encode : decodeTableWord 32 8 = some .encode := by decide
theorem test_tableWord_op_byte : decodeTableWord 8 9 = some .decode := by decide

/-! ### Commands -/

/-- T1: PRIV 6 gives 3. -/
theorem test_dpub : (after .dpub { State.reset with priv := 6, pub := 5 }).pub = 3 := by decide
/-- V-KA-4: no masking of 279. -/
theorem test_dpub_range : status .dpub { State.reset with priv := 279, pub := 5 } = 0x12 := by decide
/-- V-KA-15 -/
theorem test_dsec : (after .dsec keyed).secret = 16 := by decide
/-- V-KA-13: public key 0 gives secret 0 and OK. -/
theorem test_dsec_zero : (after .dsec { keyed with pub := 0, secret := 7 }).secret = 0 ∧
    status .dsec { keyed with pub := 0 } = 2 := by decide
/-- V-KC-1 -/
theorem test_xform : readBytes .msg (after .xform { hi with msg := buf [0x48, 0x49, 0xEE] }).msg 0 3 =
    [0x58, 0x58, 0xEE] := by decide
/-- V-KC-12 -/
theorem test_xform_secret : status .xform { hi with secret := 23 } = 0x52 := by decide
/-- V-BP-4: Binary, one byte FF; the eighth byte is left alone. -/
theorem test_frame : readBytes .bits
    (after .frame { State.reset with kind := .binary, msg := buf [0xFF], msglen := 1,
                                     bits := buf [0xEE, 0xEE, 0xEE, 0xEE, 0xEE, 0xEE, 0xEE] }).bits 0 7 =
      [0x00, 0x00, 0x00, 0x01, 0xFF, 0x80, 0xEE] := by decide
/-- V-BP-1: the length of the frame of two bytes. -/
theorem test_frame_bitlen : (after .frame hi).bitlen = 49 := by decide
/-- V-UF-1 -/
theorem test_unframe : readBytes .msg (after .unframe framed).msg 0 2 = [0x58, 0x58] ∧
    (after .unframe framed).msglen = 2 := by decide
/-- V-UF-13: a declared length whose product with 8 wraps in 32 bits. -/
theorem test_unframe_wrap : status .unframe
    { framed with bits := buf [0x20, 0x00, 0x00, 0x02, 0x2C, 0x2C, 0x00] } = 0x32 := by decide
/-- V-EM-1 -/
theorem test_embed : readBytes .pix (after .embed { small with bitlen := 6 }).pix 0 7 =
    [0x11, 0x10, 0x13, 0x13, 0x14, 0x15, 0xEE] := by decide
/-- V-EM-5: one bit too many. -/
theorem test_embed_capacity : status .embed { small with bitlen := 7 } = 0x22 ∧
    (after .embed { small with bitlen := 7 }).reqbits = 7 ∧
    (after .embed { small with bitlen := 7 }).availbits = 6 := by decide
/-- V-EX-1 -/
theorem test_extract : readBytes .bits
    (after .extract { small with pix := buf [0x11, 0x10, 0x13, 0x13, 0x14, 0x15], maxbits := 100,
                                 bits := buf [0xEE, 0xEE] }).bits 0 2 = [0xB4, 0xEE] := by decide
/-- V-EX-6: alpha bytes are skipped. -/
theorem test_extract_alpha : readBytes .bits
    (after .extract { small with pix := buf [0x11, 0x10, 0x13, 0xA3, 0x13, 0x14, 0x15, 0xA7], alpha := true,
                                 maxbits := 100 }).bits 0 1 = [0xB4] := by decide
/-- V-EN-1: "HI" into 17 black pixels. -/
theorem test_encode : readBytes .pix (after .encode { hi with imgdim := 0x00010011, pix := black [] }).pix 0 51 =
    readBytes .pix (black [30, 34, 36, 37, 42, 44, 45]) 0 51 := by decide +kernel
/-- V-EN-10: 49 bits into 48. -/
theorem test_encode_capacity : (after .encode { hi with imgdim := 0x00010010 }).reqbits = 49 ∧
    (after .encode { hi with imgdim := 0x00010010 }).availbits = 48 := by decide
/-- V-DE-1 -/
theorem test_decode : readBytes .msg (after .decode imageA).msg 0 2 = [0x48, 0x49] := by decide +kernel
/-- V-DE-10: the pair is not consistent. -/
theorem test_decode_pair : status .decode { imageA with pub := 16 } = 0x32 := by decide

/-! ### The port, resets and the interrupt -/

/-- 10_state.md R32: ID reads 0x53544547. -/
theorem test_bus_id : reply State.reset (.read 32 0x000) = some (.word 0x53544547) := by decide
/-- 20_memory.md R64: a misaligned register read. -/
theorem test_bus_misaligned : reply State.reset (.read 32 0x042) = some .error := by decide
/-- 20_memory.md R65: a 32-bit access to a buffer. -/
theorem test_bus_wide_buffer : reply State.reset (.read 32 0x10000) = some .error := by decide
/-- 20_memory.md R61: the last byte of BITS, and the address after it. -/
theorem test_bus_bits_end : reply State.reset (.write 8 0x28004 1) = some .written ∧
    reply State.reset (.write 8 0x28005 1) = some .error := by decide
/-- 40_command_protocol.md R126: STATUS may be read while busy and reads 1; PRIV may not be written. -/
theorem test_bus_busy : reply (inFlight 1) (.read 32 0x00C) = some (.word 1) ∧
    reply (inFlight 1) (.write 32 0x040 6) = some .error := by decide
/-- 60_exceptions.md R240: the interrupt is `DONE and IE`. -/
theorem test_irq : (after .dpub { keyed with ie := true }).irq = true ∧ (after .dpub keyed).irq = false := by decide
/-- 10_state.md R35: SRST set, IE is ignored. -/
theorem test_srst_ignores_ie : (busStep { keyed with ie := true } (.write 32 0x008 3)).ie = false := by decide
/-- A host program, run (30_encoding.md R110): DPUB with the scenario's private key, then a read of PUB. -/
theorem test_program :
    (match core.run 6 { State.reset with agenda := program [.wr .priv 6, .run .dpub 1, .rd .pub] } with
      | .next t => t.reply
      | .fault _ => none
      | .refused _ => none) = some (.word 3) := by decide

/-! ### Witnesses: what meets the hypotheses of each obligation -/

theorem witness_StepRunsTheCommandInFlight : (inFlight 1).busy = true ∧ decode (inFlight 1).cmd = .ok .dpub ∧
    (inFlight 1).agenda = [] ∧
    ({ inFlight 1 with agenda := [.engine, .hwReset] } : State).agenda = .engine :: [.hwReset] := by decide

theorem witness_SoftResetWhenIdleKeepsBuffers : hi.busy = false ∧ (0x2 : Word)[1] = true := by decide

theorem witness_SoftResetWhenBusyAbandonsTheCommand : (∀ w ∈ [3, 5, 9, 4, 7, 6, 8, 1, 10],
      (inFlight (BitVec.ofNat 32 w)).busy = true ∧ (inFlight (BitVec.ofNat 32 w)).cmd.toNat = w) ∧ (0x3 : Word)[1] = true ∧
    (busStep (issue hi 3) (.write 32 0x008 2)).msg ≠ hi.msg ∧
    (busStep (issue framed 4) (.write 32 0x008 2)).bits ≠ framed.bits ∧
    (busStep (issue small 6) (.write 32 0x008 2)).pix ≠ small.pix := by decide +kernel

theorem witness_HardwareResetForgetsEverything :
    ({ inFlight 3 with agenda := [.hwReset, .engine] } : State).agenda = .hwReset :: [.engine] := by decide

theorem witness_IssueLatchesAnyWord : ({ hi with done := true, ie := true } : State).busy = false := by decide

theorem witness_BusErrorChangesNothing : (busStep hi (.write 32 0x000 5)).reply = some .error ∧
    (busStep (inFlight 3) (.read 8 0x10000)).reply = some .error := by decide

/-- Six states, one per code, an operand register in the list, a busy state of the invariant, and each buffer's last
byte of an idle block. -/
theorem witness_ReadsChangeNothing : (0x050, hi.msglen) ∈ [((0x014 : Nat), hi.reqbits), (0x050, hi.msglen)] ∧
    (after .dpub keyed).err = .ok ∧ (after .dpub State.reset).err = .invalidKeyRange ∧
    (after .embed { small with bitlen := 7 }).err = .insufficientCapacity ∧
    (after .unframe State.reset).err = .malformedFrame ∧
    (raiseError (inFlight 10) .illegalCommand).err = .illegalCommand ∧
    (after .xform { hi with secret := 23 }).err = .badOperand ∧
    ((inFlight 1).memWf = true ∧ (inFlight 1).statusWf = true ∧ (inFlight 1).detailWf = true ∧
      (inFlight 1).busy = true) ∧
    hi.busy = false ∧ 32767 < 32768 ∧ 32772 < 32773 ∧ 262143 < 262144 := by decide

theorem witness_CompletionRaisesTheInterrupt : exec .dpub State.reset = .next (after .dpub State.reset) ∧
    (after .dpub State.reset).err = .invalidKeyRange := by
  refine ⟨rfl, ?_⟩; decide

theorem witness_ConstantRegistersNeverChange : ((0x000 : Nat), (0x53544547 : Word)) ∈
    [((0x000 : Nat), (0x53544547 : Word)), (0x004, 1), (0x020, 9), (0x024, 23), (0x028, 262144), (0x02C, 32768),
      (0x030, 262177)] := by decide

theorem witness_OperandWriteReplacesTheRegister : hi.busy = false ∧
    Reg.priv ∈ [Reg.priv, .pub, .secret, .msglen, .bitlen, .maxbits, .imgdim] ∧ Reg.imgcfg ∈ [Reg.kind, .imgcfg] := by
  decide

theorem witness_CtrlWriteSetsInterruptEnable : (0xFFFFFFFD : Word)[1] = false := by decide

theorem witness_ClearDoneClearsOnlyDone : (after .dpub keyed).busy = false ∧ (0x2 : Word)[1] = true ∧
    (0xFFFFFFFD : Word)[1] = false ∧ (after .dpub keyed).err = .ok ∧
    (after .dpub State.reset).busy = false ∧ (after .dpub State.reset).err = .invalidKeyRange := by decide

theorem witness_BufferByteWriteReadsBack : hi.busy = false ∧ 0 < bufSize .msg ∧ 32767 < bufSize .msg ∧
    32772 < bufSize .bits ∧ 262143 < bufSize .pix := by decide

theorem witness_BusyBlockRefusesTheHost : (inFlight 10).busy = true ∧ 32767 < bufSize .msg ∧
    32772 < bufSize .bits ∧ 262143 < bufSize .pix ∧ Reg.cmd ≠ .ctrl := by decide

theorem witness_DpubDerivesThePublicKey : ∀ p ∈ [1, 22],
    1 ≤ ({ keyed with priv := BitVec.ofNat 32 p } : State).priv.toNat ∧
    ({ keyed with priv := BitVec.ofNat 32 p } : State).priv.toNat ≤ 22 := by decide

theorem witness_DpubFunctionTable : ((22 : Word), (1 : Word)) ∈
      [((1 : Word), (9 : Word)), (2, 12), (3, 16), (4, 6), (5, 8), (6, 3), (7, 4), (8, 13), (9, 2), (10, 18), (11, 1),
        (12, 9), (13, 12), (14, 16), (15, 6), (16, 8), (17, 3), (18, 4), (19, 13), (20, 2), (21, 18), (22, 1)] ∧
    ({ keyed with priv := 22 } : State).priv = 22 := by decide

theorem witness_DsecDerivesTheSecret : ∀ p ∈ [1, 22], ∀ q ∈ [0, 22], ∀ s : State,
    s = { keyed with priv := BitVec.ofNat 32 p, pub := BitVec.ofNat 32 q } →
    1 ≤ s.priv.toNat ∧ s.priv.toNat ≤ 22 ∧ s.pub.toNat ≤ 22 := by
  rintro p hp q hq s rfl
  revert p hp q hq; decide

theorem witness_ConsistentPairsShareSixSecrets : 1 ≤ ({ keyed with priv := 11 } : State).priv.toNat ∧
    ({ keyed with priv := 11 } : State).priv.toNat ≤ 22 ∧
    ({ hi with priv := 22 } : State).priv.toNat = ({ keyed with priv := 11 } : State).priv.toNat + 11 ∧
    ({ hi with priv := 22 } : State).priv.toNat ≤ 22 := by decide

theorem witness_KeysOutOfRangeAreRefused : ({ keyed with priv := 0 } : State).priv.toNat = 0 ∧
    23 ≤ ({ keyed with priv := 23 } : State).priv.toNat ∧ 23 ≤ ({ keyed with pub := 23 } : State).pub.toNat := by decide

theorem witness_SquareAndMultiplyIsModpow : 2 ≤ 2 := by decide

theorem witness_XformCiphersTheMessage : ∀ l ∈ [0, 2, 32768], ∀ k ∈ [0, 22], ∀ s : State,
    s = { hi with msglen := BitVec.ofNat 32 l, secret := BitVec.ofNat 32 k } →
    s.msglen.toNat ≤ 32768 ∧ s.secret.toNat ≤ 22 := by
  rintro l hl k hk s rfl
  revert l hl k hk; decide

theorem witness_DifferentSecretsDifferInEveryByte : (0 ≤ 22 ∧ 22 ≤ 22 ∧ 0 ≠ 22) ∧
    1 < (transform 0 [0x48, 0x49]).length ∧ 1 < (transform 22 [0x48, 0x49]).length := by decide

theorem witness_FrameWritesTheFrame : hi.msglen.toNat ≤ 32768 ∧
    ({ hi with msglen := 32768 } : State).msglen.toNat ≤ 32768 ∧ 1 < hi.msglen.toNat ∧
    33 + 8 * hi.msglen.toNat ≤ 49 ∧ 49 < 8 * (5 + hi.msglen.toNat) := by decide

theorem witness_UnframeRecoversTheMessage :
    2 = ∑ i ∈ Finset.range 32, (bitRead framed.bits i).toNat * 2 ^ (31 - i) ∧
    framed.bitlen.toNat ≤ 262177 ∧ 33 + 8 * 2 ≤ framed.bitlen.toNat ∧ ∀ s : State,
      s = { framed with bits := buf [0x00, 0x00, 0x80, 0x00, 0x00], bitlen := 262177 } →
      32768 = ∑ i ∈ Finset.range 32, (bitRead s.bits i).toNat * 2 ^ (31 - i) ∧
        s.bitlen.toNat ≤ 262177 ∧ 33 + 8 * 32768 ≤ s.bitlen.toNat := by
  refine ⟨by decide +kernel, by decide, by decide, ?_⟩
  rintro s rfl; decide +kernel

theorem witness_UnframeRefusesWhatIsNoFrame :
    2 = ∑ i ∈ Finset.range 32, (bitRead framed.bits i).toNat * 2 ^ (31 - i) ∧
    262177 < ({ framed with bitlen := 262178 } : State).bitlen.toNat ∧
    ({ framed with bitlen := 32 } : State).bitlen.toNat < 33 ∧
    33 ≤ ({ framed with bitlen := 48 } : State).bitlen.toNat ∧
    ({ framed with bitlen := 48 } : State).bitlen.toNat ≤ 262177 ∧
    ({ framed with bitlen := 48 } : State).bitlen.toNat - 33 < 8 * 2 := by decide +kernel

theorem witness_UnframeInvertsFrame : ([0x58, 0x58] : List Byte).length < 2 ^ 32 ∧
    49 ≤ (frameBits [0x58, 0x58] .text ++ [true]).length ∧ 33 + 8 * ([0x58, 0x58] : List Byte).length ≤ 49 ∧
    48 < 33 + 8 * ([0x58, 0x58] : List Byte).length := by decide

theorem witness_GeometryAndCapacity : ({ keyed with imgdim := 0x01000100, alpha := true } : State).geomOk = true := by
  decide

theorem witness_PositionsWalkThePixels : 0 < 17 ∧ 3 ≤ 3 ∧ 3 < 4 ∧ small.geomOk = true ∧ 5 < small.cap := by decide

theorem witness_EmbedWritesTheStream : ∀ n ∈ [0, 6], ∀ s : State, s = { small with bitlen := BitVec.ofNat 32 n } →
    s.bitlen.toNat ≤ 262177 ∧ s.geomOk = true ∧ s.bitlen.toNat ≤ s.cap := by
  rintro n hn s rfl
  revert n hn; decide

theorem witness_EmbedRefusals : 262177 < ({ small with bitlen := 262178 } : State).bitlen.toNat ∧
    ({ small with imgdim := 0x00AB0200 } : State).geomOk = false ∧
    ({ small with bitlen := 7 } : State).bitlen.toNat ≤ 262177 ∧ ({ small with bitlen := 7 } : State).geomOk = true ∧
    ({ small with bitlen := 7 } : State).cap < ({ small with bitlen := 7 } : State).bitlen.toNat := by decide

theorem witness_ExtractReadsTheStream : ∀ p ∈ [(0, 0), (4, 4), (0xFFFFFFFF, 6)], ∀ s : State,
    s = { small with maxbits := BitVec.ofNat 32 p.1 } → s.geomOk = true ∧ p.2 = min s.maxbits.toNat s.cap := by
  rintro p hp s rfl
  revert p hp; decide

theorem witness_BadOperandsAreRefused : 32768 < ({ hi with msglen := 32769 } : State).msglen.toNat ∧
    22 < ({ hi with secret := 23 } : State).secret.toNat ∧ ({ small with imgdim := 0x00AB0200 } : State).geomOk = false := by
  decide

theorem witness_EmbedAndExtractLaws : 3 ≤ 4 ∧ 0 < 1 ∧ ([true] : List Bool).length ≤ 1 ∧ 3 % 4 = 3 ∧
    ([true] : List Bool).length ≤ 3 * 2 * 1 ∧ 4 * 2 * 1 ≤ 8 := by decide

/-- V-EN-11: three bytes fill a 19 by 1 image exactly. -/
theorem witness_EncodeEmbedsTheCipheredFrame : ∀ p ∈ [1, 22], ∀ q ∈ [0, 22], ∀ s : State,
    s = { hi with priv := BitVec.ofNat 32 p, pub := BitVec.ofNat 32 q, msglen := 3, imgdim := 0x00010013 } →
    s.msglen.toNat ≤ 32768 ∧ s.geomOk = true ∧ 1 ≤ s.priv.toNat ∧ s.priv.toNat ≤ 22 ∧ s.pub.toNat ≤ 22 ∧
      33 + 8 * s.msglen.toNat ≤ s.cap := by
  rintro p hp q hq s rfl
  revert p hp q hq; decide

theorem witness_EncodeRefusals : 32768 < ({ hi with msglen := 32769 } : State).msglen.toNat ∧
    ({ hi with imgdim := 0x00AB0200 } : State).geomOk = false ∧ hi.msglen.toNat ≤ 32768 ∧ hi.geomOk = true ∧
    ({ hi with priv := 0 } : State).priv.toNat = 0 ∧ 23 ≤ ({ hi with priv := 23 } : State).priv.toNat ∧
    23 ≤ ({ hi with pub := 23 } : State).pub.toNat ∧
    ({ hi with imgdim := 0x00010010 } : State).cap < 33 + 8 * hi.msglen.toNat := by decide

theorem witness_DecodeRecoversTheMessage :
    2 = ∑ i ∈ Finset.range 32, (lsbAt imageA.cpp imageA.pix i).toNat * 2 ^ (31 - i) ∧ imageA.geomOk = true ∧
    1 ≤ imageA.priv.toNat ∧ imageA.priv.toNat ≤ 22 ∧ imageA.pub.toNat = 9 ^ imageA.priv.toNat % 23 ∧
    33 + 8 * 2 ≤ imageA.cap := by decide +kernel

theorem witness_DecodeRefusals :
    2 = ∑ i ∈ Finset.range 32, (lsbAt imageA.cpp imageA.pix i).toNat * 2 ^ (31 - i) ∧
    ({ imageA with imgdim := 0x00AB0200 } : State).geomOk = false ∧ imageA.geomOk = true ∧
    ({ imageA with priv := 0 } : State).priv.toNat = 0 ∧ 23 ≤ ({ imageA with pub := 23 } : State).pub.toNat ∧
    ({ imageA with pub := 16 } : State).pub.toNat ≠ 9 ^ imageA.priv.toNat % 23 ∧
    ({ imageA with imgdim := 0x0001000A } : State).cap < 33 ∧
    33 ≤ ({ imageA with imgdim := 0x00010010 } : State).cap ∧
    ({ imageA with imgdim := 0x00010010 } : State).cap - 33 < 8 * 2 := by decide +kernel

theorem witness_DecodeInvertsEncode : ∀ s : State, s = { hi with imgdim := 0x00010011, pix := black [] } →
    1 ≤ s.priv.toNat ∧ s.priv.toNat ≤ 22 ∧ s.pub.toNat = 9 ^ s.priv.toNat % 23 ∧ s.geomOk = true ∧
      s.msglen.toNat ≤ 32768 ∧ 33 + 8 * s.msglen.toNat ≤ s.cap ∧ (after .encode s).pix = imageA.pix ∧
      (after .encode s).priv = imageA.priv ∧ (after .encode s).pub = imageA.pub ∧
      (after .encode s).imgdim = imageA.imgdim ∧ (after .encode s).alpha = imageA.alpha := by
  rintro s rfl; decide +kernel

/-- The pairs (5, 8) and (3, 16): secrets 16, the same, and 2, another (V-DE-3, V-DE-5). -/
theorem witness_WrongSecretGarblesEveryByte :
    (5 ≤ 22 ∧ 8 = 9 ^ 5 % 23 ∧ 3 ^ 6 % 23 = 8 ^ 5 % 23) ∧ (3 ≤ 22 ∧ 16 = 9 ^ 3 % 23 ∧ 3 ^ 6 % 23 ≠ 16 ^ 3 % 23) ∧
    ({ imageA with priv := 3, pub := 16 } : State).pub.toNat = 16 := by decide

theorem witness_EncodeIsThePrimitiveChain :
    (after .encode { hi with imgdim := 0x00010011, pix := black [] }).err = .ok ∧
    (1 ≤ ({ hi with msglen := 32769 } : State).priv.toNat ∧ ({ hi with msglen := 32769 } : State).priv.toNat ≤ 22 ∧
      ({ hi with msglen := 32769 } : State).pub.toNat ≤ 22) ∧
    (({ hi with priv := 23 } : State).msglen.toNat ≤ 32768 ∧ ({ hi with priv := 23 } : State).geomOk = true) := by
  decide

theorem witness_DecodeIsThePrimitiveChain : imageA.pub.toNat = 9 ^ imageA.priv.toNat % 23 ∧
    1 ≤ imageA.priv.toNat ∧ imageA.priv.toNat ≤ 22 ∧ (after .decode imageA).err = .ok := by decide +kernel

theorem witness_ImagesNeverEmbedded : ∀ b ∈ [true, false], ∀ s : State,
    s = { keyed with imgdim := 0x0001000B, pix := buf (List.replicate 33 (if b then 0xFF else 0x00)) } →
    s.geomOk = true ∧ 1 ≤ s.priv.toNat ∧ s.priv.toNat ≤ 22 ∧ s.pub.toNat = 9 ^ s.priv.toNat % 23 ∧
      (∀ k < s.cap, lsbAt s.cpp s.pix k = b) ∧ 33 ≤ s.cap := by
  rintro b hb s rfl
  cases b <;> decide +kernel

theorem witness_IllegalWordCompletesAsIllegal : (inFlight 0).busy = true ∧ (inFlight 0).agenda = [] ∧
    (inFlight 0).cmd.toNat = 0 ∧ (inFlight 10).busy = true ∧ 10 ≤ (inFlight 10).cmd.toNat ∧
    10 ≤ (inFlight 0x101).cmd.toNat ∧
    ({ inFlight 10 with agenda := [.engine, .engine] } : State).agenda = .engine :: [.engine] := by decide

theorem witness_ErrorsAreAllOrNothing : exec .dpub State.reset = .next (after .dpub State.reset) ∧
    (after .dpub State.reset).err ≠ .ok ∧ (after .dpub State.reset).err ≠ .insufficientCapacity := by
  refine ⟨rfl, ?_⟩; decide

theorem witness_OnlyListedCodesAreProduced : exec .decode imageA = .next (after .decode imageA) := rfl

theorem witness_CommandsWriteOnlyTheirListedState : (after .dpub imageA).cmd = imageA.cmd ∧
    (after .dpub { keyed with pub := 0 }).pub ≠ 0 ∧ (after .dsec keyed).secret ≠ keyed.secret ∧
    (after .unframe framed).msglen ≠ framed.msglen ∧ (after .frame hi).bitlen ≠ hi.bitlen ∧
    (after .xform hi).msg ≠ hi.msg ∧ (after .embed { small with bitlen := 6 }).pix ≠ small.pix := by decide

/-- Two states that agree on what `i` reads and differ in MAXBITS or, for EXTRACT, in PUB. -/
theorem witness_ResultsDependOnlyOnTheReadsSet :
    readsAgree imageA { imageA with maxbits := 1 } .dpub ∧ readsAgree imageA { imageA with maxbits := 1 } .dsec ∧
    readsAgree hi { hi with maxbits := 1 } .xform ∧ readsAgree hi { hi with maxbits := 1 } .frame ∧
    readsAgree framed { framed with maxbits := 1 } .unframe ∧ readsAgree small { small with maxbits := 1 } .embed ∧
    readsAgree small { small with pub := 1 } .extract ∧ readsAgree hi { hi with maxbits := 1 } .encode ∧
    readsAgree imageA { imageA with maxbits := 1 } .decode :=
  ⟨rfl, ⟨rfl, rfl⟩, ⟨rfl, rfl, fun _ _ => rfl⟩, ⟨rfl, rfl, fun _ _ => rfl⟩, ⟨rfl, fun _ _ => rfl⟩,
    ⟨rfl, fun _ _ => rfl, ⟨rfl, rfl⟩, fun _ _ => rfl⟩, ⟨rfl, ⟨rfl, rfl⟩, fun _ _ => rfl⟩,
    ⟨rfl, rfl, rfl, rfl, fun _ _ => rfl, ⟨rfl, rfl⟩, fun _ _ => rfl⟩, ⟨rfl, rfl, ⟨rfl, rfl⟩, fun _ _ => rfl⟩⟩

theorem witness_EveryStepKeepsTheInvariant :
    State.Inv { hi with cmd := 3, busy := true } ∧
    step { hi with cmd := 3, busy := true } = .next (after .xform { hi with cmd := 3, busy := true }) := by
  refine ⟨?_, rfl⟩; unfold State.Inv; decide

/-- A busy block and a host that reads STATUS and enables the interrupt. -/
theorem witness_EveryCommandCompletes : ∀ s : State,
    s = { inFlight 1 with agenda := [.bus (.read 32 0x00C), .bus (.write 32 0x008 1)] } →
    s.busy = true ∧ Event.hwReset ∉ s.agenda ∧
      (∀ data, Event.bus (.write 32 0x008 data) ∈ s.agenda → data.testBit 1 = false) := by
  rintro s rfl
  refine ⟨rfl, by decide, fun data h => ?_⟩
  obtain rfl : data = 1 := by simpa using h
  rfl

/-- A byte of MSG is written; byte 1 of MSG stays unwritten. -/
theorem witness_UnwrittenBytesAreStable : ∀ s : State, s = { State.reset with agenda := [.bus (.write 8 0x10000 5)] } →
    ∃ t, step s = .next t ∧ (∀ rest, s.agenda ≠ .hwReset :: rest) ∧
      (∀ data rest, s.agenda = .bus (.write 32 0x008 data) :: rest → data.testBit 1 = true → s.busy = false) ∧
      getCell 1 (t.buf .msg).cells = none ∧ getCell 0 (t.buf .msg).cells = some 5 := by
  rintro s rfl
  exact ⟨_, rfl, by simp, fun _ _ _ _ => rfl, by decide, by decide⟩

/-- A write of IE to CTRL of a busy block. -/
theorem witness_UnwrittenBytesAreStable_busy : ∀ s : State,
    s = { inFlight 3 with agenda := [.bus (.write 32 0x008 1)] } →
    ∃ t, step s = .next t ∧ s.busy = true ∧ (∀ rest, s.agenda ≠ .hwReset :: rest) ∧
      (∀ data rest, s.agenda = .bus (.write 32 0x008 data) :: rest → data.testBit 1 = true → s.busy = false) ∧
      getCell 0 (t.buf .msg).cells = none := by
  rintro s rfl
  refine ⟨_, rfl, rfl, by simp, fun data rest h hd => ?_, rfl⟩
  obtain ⟨rfl, -⟩ : data = 1 ∧ rest = [] := by simpa [eq_comm] using h
  exact absurd hd (by decide)

theorem witness_RunStatementCompletesItsCommand : ∀ s : State, s = { keyed with agenda := expand (.run .dsec 2) } →
    s.busy = false ∧ s.agenda = expand (.run .dsec 2) ∧
      exec .dsec (issue s (encode .dsec)) = .next (after .dsec (issue s (encode .dsec))) := by
  rintro s rfl; exact ⟨rfl, rfl, rfl⟩

end Sys2Proof.Tests
end

/-! PROOFS of the family 10_state.md. Rules about the register port, used by the statements on registers. -/

namespace Sys2Proof.Machine

/-! ### Register transactions -/

/-- A 32-bit read at a register's offset changes the reply alone (20_memory.md R66). -/
theorem busStep_readReg (s : State) (r : Reg) :
    busStep s (.read 32 (regOffset r)) = s.withReply (.word (readReg s r)) := by
  rw [busStep, busRead_reg]

/-- A 32-bit write at a register's offset is that register's write, of the data cut to the width. -/
theorem busWrite_regOffset (s : State) (r : Reg) (data : Nat) :
    busWrite s 32 (regOffset r) data = writeReg s r (BitVec.ofNat 32 data) := by
  simp [busWrite]

theorem busStep_write_of_none {s : State} {bits a data : Nat} (h : busWrite s bits a data = none) :
    busStep s (.write bits a data) = s.withReply .error := by
  rw [busStep, h]

theorem busStep_write_of_some {s t : State} {bits a data : Nat} (h : busWrite s bits a data = some t) :
    busStep s (.write bits a data) = t.withReply .written := by
  rw [busStep, h]

theorem busStep_writeReg_of_some {s t : State} {r : Reg} {v : Word} (h : writeReg s r v = some t) :
    busStep s (.write 32 (regOffset r) v.toNat) = t.withReply .written :=
  busStep_write_of_some (by rw [busWrite_reg, h])

/-- A register write to an idle block, by what the register makes of it. -/
theorem busStep_writeReg_idle {s t : State} (hb : s.busy = false) {r : Reg} {v : Word}
    (h : writeRegIdle s r v = some t) :
    busStep s (.write 32 (regOffset r) v.toNat) = t.withReply .written :=
  busStep_writeReg_of_some (by rw [writeReg_idle hb, h])

/-- `CTRL` takes a write idle or busy (40_command_protocol.md R126). -/
theorem writeReg_ctrl (s : State) (v : Word) : writeReg s .ctrl v = some (writeCtrl s v) := by
  cases hb : s.busy
  · rw [writeReg_idle hb, writeRegIdle]
  · rw [writeReg_busy hb, if_pos rfl]

/-- Bit 0 of a word as a word: what a one-bit register reads as after a write (10_state.md R39). -/
theorem ofNat_toNat_getElem_zero (v : Word) : BitVec.ofNat 32 (v[0]).toNat = v &&& 1 := by
  apply BitVec.eq_of_toNat_eq
  rw [BitVec.getElem_eq_testBit_toNat, Nat.testBit_zero, BitVec.toNat_and, BitVec.toNat_ofNat,
    show (1 : Word).toNat = 1 from rfl, Nat.and_one_is_mod]
  rcases Nat.mod_two_eq_zero_or_one v.toNat with h | h <;> simp [h]

/-! ### The constant registers -/

/-- The registers that no transaction and no command can change (10_state.md R32 to R34). -/
def constantRegs : List Reg := [.id, .version, .gparam, .pparam, .pixsz, .msgsz, .bitsz]

theorem writeReg_constant {r : Reg} (hr : r ∈ constantRegs) (s : State) (v : Word) : writeReg s r v = none := by
  have hidle : writeRegIdle s r v = none := by
    simp only [constantRegs, List.mem_cons, List.not_mem_nil, or_false] at hr
    rcases hr with rfl | rfl | rfl | rfl | rfl | rfl | rfl <;> rfl
  rw [writeReg, hidle, ite_self]

theorem busStep_write_constant {r : Reg} (hr : r ∈ constantRegs) (s : State) (data : Nat) :
    busStep s (.write 32 (regOffset r) data) = s.withReply .error :=
  busStep_write_of_none (by rw [busWrite_regOffset, writeReg_constant hr])

/-- Settles O15: every pair of the list is the offset and the constant of a constant register. -/
theorem constantRegistersNeverChange : Obligations.ConstantRegistersNeverChange := by
  intro s a v hav
  obtain ⟨r, hr, rfl, rfl⟩ : ∃ r ∈ constantRegs, a = regOffset r ∧ v = readReg s r := by
    simp only [List.mem_cons, Prod.mk.injEq, List.not_mem_nil, or_false] at hav
    rcases hav with ⟨rfl, rfl⟩ | ⟨rfl, rfl⟩ | ⟨rfl, rfl⟩ | ⟨rfl, rfl⟩ | ⟨rfl, rfl⟩ | ⟨rfl, rfl⟩ | ⟨rfl, rfl⟩
    · exact ⟨.id, by decide, rfl, rfl⟩
    · exact ⟨.version, by decide, rfl, rfl⟩
    · exact ⟨.gparam, by decide, rfl, rfl⟩
    · exact ⟨.pparam, by decide, rfl, rfl⟩
    · exact ⟨.pixsz, by decide, rfl, rfl⟩
    · exact ⟨.msgsz, by decide, rfl, rfl⟩
    · exact ⟨.bitsz, by decide, rfl, rfl⟩
  exact ⟨busStep_readReg s r, busStep_write_constant hr s⟩

/-! ### Registers after reset -/

/-- Settles O5. -/
theorem resetRegisterValues : Obligations.ResetRegisterValues :=
  ⟨by decide, rfl, rfl, rfl, rfl, rfl, rfl, rfl, rfl, rfl⟩

/-! ### Operand and control writes -/

/-- A one-bit register reads as bit 0 of the word last written to it (10_state.md R39). -/
theorem kindWord_of_write {s : State} {v : Word} (h : s.kind = Kind.ofBit v[0]) : kindWord s = v &&& 1 := by
  rw [kindWord, h, Kind.bit_ofBit, ofNat_toNat_getElem_zero]

theorem imgcfgWord_of_write {s : State} {v : Word} (h : s.alpha = v[0]) : imgcfgWord s = v &&& 1 := by
  rw [imgcfgWord, h, ofNat_toNat_getElem_zero]

theorem ctrlWord_of_write {s : State} {v : Word} (h : s.ie = v[0]) : ctrlWord s = v &&& 1 := by
  rw [ctrlWord, h, ofNat_toNat_getElem_zero]

/-- Settles O16: each write is `busStep_writeReg_idle` at its register. -/
theorem operandWriteReplacesTheRegister : Obligations.OperandWriteReplacesTheRegister := by
  intro s v hb
  have write {r : Reg} {t : State} (h : writeRegIdle s r v = some t) :
      busStep s (.write 32 (regOffset r) v.toNat) = t.withReply .written := busStep_writeReg_idle hb h
  refine ⟨write (r := .priv) rfl, write (r := .pub) rfl, write (r := .secret) rfl, write (r := .kind) rfl,
    write (r := .msglen) rfl, write (r := .bitlen) rfl, write (r := .maxbits) rfl, write (r := .imgdim) rfl,
    write (r := .imgcfg) rfl, ?full, ?oneBit⟩
  case full =>
    simp only [List.forall_mem_cons, List.not_mem_nil, false_implies, implies_true, and_true]
    refine ⟨?_, ?_, ?_, ?_, ?_, ?_, ?_⟩ <;> (rw [write rfl]; rfl)
  case oneBit =>
    simp only [List.forall_mem_cons, List.not_mem_nil, false_implies, implies_true, and_true]
    constructor
    · rw [write rfl]; exact kindWord_of_write rfl
    · rw [write rfl]; exact imgcfgWord_of_write rfl

/-- Settles O17: without SRST a write to CTRL is a write of IE. -/
theorem ctrlWriteSetsInterruptEnable : Obligations.CtrlWriteSetsInterruptEnable := by
  intro s v hv
  have hctrl : writeCtrl s v = s.withIe v[0] := by rw [writeCtrl, hv, if_neg Bool.false_ne_true]
  have hstep : busStep s (.write 32 (regOffset .ctrl) v.toNat) = (s.withIe v[0]).withReply .written := by
    rw [busStep_writeReg_of_some (writeReg_ctrl s v), hctrl]
  exact ⟨hstep, (congrArg (readReg · .ctrl) hstep).trans (ctrlWord_of_write rfl)⟩

/-! ### The image geometry -/

theorem imgW_eq (s : State) : s.imgW = s.imgdim.toNat % 65536 := by
  simp [State.imgW, BitVec.extractLsb'_toNat]

theorem imgH_eq (s : State) : s.imgH = s.imgdim.toNat / 65536 := by
  have := s.imgdim.isLt
  simp only [State.imgH, BitVec.extractLsb'_toNat, Nat.shiftRight_eq_div_pow]
  omega

theorem cpp_eq_ite (s : State) : s.cpp = if s.alpha then 4 else 3 := by
  cases h : s.alpha <;> simp [State.cpp, h]

/-- Settles O36. -/
theorem geometryAndCapacity : Obligations.GeometryAndCapacity := by
  intro s
  rw [← imgW_eq, ← imgH_eq]
  exact ⟨rfl, cpp_eq_ite s, geomOk_iff s, cap_le⟩

end Sys2Proof.Machine

/-! PROOFS of the family 10_state.md. The invariant: what it says as arithmetic, what each kind of step keeps of it, and
that every step keeps it. -/

namespace Sys2Proof.Machine

/-! ### The invariant as propositions -/

theorem memWf_iff (s : State) : s.memWf = true ↔ ∀ sp, (s.buf sp).wf (bufSize sp) = true := by
  simp only [State.memWf, Bool.and_eq_true]
  constructor
  · rintro ⟨⟨hmsg, hbits⟩, hpix⟩ sp
    cases sp
    · exact hmsg
    · exact hbits
    · exact hpix
  · intro h
    exact ⟨⟨h .msg, h .bits⟩, h .pix⟩

theorem statusWf_iff (s : State) :
    s.statusWf = true ↔ (s.busy = true → s.done = false) ∧ (s.busy = true → s.err = .ok) := by
  cases hb : s.busy <;> simp [State.statusWf, hb]

theorem detailWf_iff (s : State) :
    s.detailWf = true ↔ (s.err ≠ .insufficientCapacity → s.reqbits = 0 ∧ s.availbits = 0) ∧
      s.reqbits.toNat ≤ 262177 ∧ s.availbits.toNat ≤ 262144 := by
  simp [State.detailWf, and_assoc, or_iff_not_imp_left]

/-- With ERR, REQBITS and AVAILBITS clear the invariant asks only for buffers in canonical form and for BUSY and DONE not
both 1. -/
theorem inv_of_clear {s : State} (hm : s.memWf = true) (hd : s.busy = true → s.done = false) (he : s.err = .ok)
    (hr : s.reqbits = 0) (ha : s.availbits = 0) : s.Inv :=
  ⟨hm, (statusWf_iff s).2 ⟨hd, fun _ => he⟩, (detailWf_iff s).2 (by simp [hr, ha])⟩

/-- Settles O6. -/
theorem resetMeetsInvariant : Obligations.ResetMeetsInvariant :=
  inv_of_clear reset_memWf (fun _ => rfl) rfl rfl rfl

/-! ### Buffers -/

theorem withBuf_memWf {s : State} (h : s.memWf = true) {sp : BufId} {b : Buffer} (hb : b.wf (bufSize sp) = true) :
    (s.withBuf sp b).memWf = true := by
  rw [memWf_iff] at h ⊢
  intro sp'
  by_cases hsp : sp' = sp
  · subst hsp; rwa [State.buf_withBuf_self]
  · rw [State.buf_withBuf_of_ne _ _ _ _ hsp]; exact h sp'

theorem withStream_memWf {s : State} (h : s.memWf = true) {l : List Bool} (hl : l.length ≤ 262184) :
    (s.withStream l).memWf = true :=
  withBuf_memWf (sp := .bits) h (writeStream_wf l ((memWf_iff s).1 h .bits) hl)

theorem withMsg_writeBytes_memWf {s : State} (h : s.memWf = true) {m : List Byte} (hm : m.length ≤ 32768) :
    (s.withMsg (writeBytes s.msg 0 m)).memWf = true :=
  withBuf_memWf (sp := .msg) h (writeBytes_wf m ((memWf_iff s).1 h .msg) (by simpa using hm))

theorem withPix_embedBits_memWf {s : State} (h : s.memWf = true) (hg : s.geomOk = true) {l : List Bool}
    (hl : l.length ≤ s.cap) : (s.withPix (embedBits s.cpp s.pix l)).memWf = true :=
  withBuf_memWf (sp := .pix) h
    (embedBits_wf l ((memWf_iff s).1 h .pix) fun _ hk => pos_lt_pixBytes hg (hk.trans_le hl))

/-- The message of a bitstream that fits BITS fits MSG: 33 + 8 * 32768 is `BITS_BITS` (00_scope.md R6). -/
theorem unframeBits_length_le {l : List Bool} {m : List Byte} {k : Kind} (h : unframeBits l = some (m, k))
    (hl : l.length ≤ 262177) : m.length ≤ 32768 := by
  obtain ⟨-, hL, rfl, -⟩ := (unframeBits_eq_some l m k).1 h
  rw [streamBytes_length]
  omega

/-! ### Commands -/

/-- A command that succeeds keeps the buffers in canonical form and writes inside them. -/
theorem Succeeds.memWf {s t : State} {i : Instr} (h : Succeeds s i t) (hm : s.memWf = true) : t.memWf = true := by
  cases h with
  | dpub => exact hm
  | dsec => exact hm
  | xform hlen _ =>
    rw [msglenOk_iff] at hlen
    exact withMsg_writeBytes_memWf hm (by rwa [transform_length, message_length])
  | frame hlen =>
    rw [msglenOk_iff] at hlen
    refine withStream_memWf hm ?_
    rw [frameBits_length, message_length, frameLen_eq]
    omega
  | unframe m k hlen hf =>
    rw [bitlenOk_iff] at hlen
    exact withMsg_writeBytes_memWf hm (unframeBits_length_le hf (by rwa [stream_length]))
  | embed _ hg hc => exact withPix_embedBits_memWf hm hg (by rwa [stream_length])
  | extract hg =>
    refine withStream_memWf hm ?_
    have hcap := cap_le hg
    have hmin : s.extractLen ≤ s.cap := Nat.min_le_right _ _
    rw [extractBits_length]
    omega
  | encode _ hg _ _ hc => exact withPix_embedBits_memWf hm hg (by rwa [encodedFrame_length])
  | decode c k hg _ _ _ hf =>
    have hcap := cap_le hg
    refine withMsg_writeBytes_memWf hm ?_
    rw [transform_length]
    exact unframeBits_length_le hf (by rw [extractBits_length]; omega)

/-- The detail of an error is 0 unless the capacity is insufficient (60_exceptions.md R231 to R235). -/
theorem CmdError.detail_eq_zero {e : CmdError} (h : e.code ≠ .insufficientCapacity) : e.req = 0 ∧ e.avail = 0 := by
  cases e with
  | insufficientCapacity => exact absurd rfl h
  | invalidKeyRange => exact ⟨rfl, rfl⟩
  | malformedFrame => exact ⟨rfl, rfl⟩
  | illegalCommand => exact ⟨rfl, rfl⟩
  | badOperand => exact ⟨rfl, rfl⟩

theorem CmdError.insufficientCapacity_detail_le {req avail : Nat} (hr : req ≤ 262177) (ha : avail ≤ 262144) :
    (CmdError.insufficientCapacity req avail).req.toNat ≤ 262177 ∧
      (CmdError.insufficientCapacity req avail).avail.toNat ≤ 262144 := by
  simp only [CmdError.req, CmdError.avail, BitVec.toNat_ofNat]
  omega

/-- The detail a command's error records is within its bounds (10_state.md R38). -/
theorem Fails.detail_le {s : State} {i : Instr} {e : CmdError} (h : Fails s i e) :
    e.req.toNat ≤ 262177 ∧ e.avail.toNat ≤ 262144 := by
  by_cases hc : e.code = .insufficientCapacity
  · cases h with
    | embedCapacity hlen hg => exact CmdError.insufficientCapacity_detail_le ((bitlenOk_iff s).1 hlen) (cap_le hg)
    | encodeCapacity hlen hg =>
      rw [msglenOk_iff] at hlen
      exact CmdError.insufficientCapacity_detail_le (by rw [frameLen_eq]; omega) (cap_le hg)
    | _ => cases hc
  · obtain ⟨hr, ha⟩ := CmdError.detail_eq_zero hc
    simp [hr, ha]

theorem completeOk_inv {s : State} (hm : s.memWf = true) : (completeOk s).Inv :=
  inv_of_clear hm nofun rfl rfl rfl

theorem raiseError_inv {s : State} {e : CmdError} (hm : s.memWf = true)
    (he : e.req.toNat ≤ 262177 ∧ e.avail.toNat ≤ 262144) : (raiseError s e).Inv :=
  ⟨hm, (statusWf_iff _).2 ⟨nofun, nofun⟩, (detailWf_iff _).2 ⟨CmdError.detail_eq_zero, he⟩⟩

/-- A command's completion needs of the state before it only that the buffers are in canonical form. -/
theorem complete_outcome_inv {s : State} (hm : s.memWf = true) (i : Instr) : (complete s (outcome s i)).Inv := by
  rcases outcome_cases s i with ⟨t, ht, hs⟩ | ⟨e, he, hf⟩
  · rw [ht]; exact completeOk_inv (hs.memWf hm)
  · rw [he]; exact raiseError_inv hm hf.detail_le

/-- The engine's turn keeps the invariant. -/
theorem engineStep_inv {s t : State} (h : s.Inv) (hst : engineStep s = .next t) : t.Inv := by
  rcases engineStep_cases s with ⟨_, he⟩ | ⟨i, _, _, he⟩ | ⟨_, _, _, he⟩ <;>
    obtain rfl := Host.Outcome.next.inj (he.symm.trans hst)
  · exact h
  · exact complete_outcome_inv h.1 i
  · exact raiseError_inv h.1 (by decide)

/-! ### Resets -/

theorem softReset_inv {s : State} (h : s.memWf = true) : (softReset s).Inv := by
  have hm : (softReset s).memWf = true := by
    rw [memWf_iff] at h ⊢
    intro sp
    rw [softReset_buf]
    split
    · exact scrub_wf _ _
    · exact h sp
  exact inv_of_clear hm (by rw [softReset_eq]; exact nofun) (by rw [softReset_eq]; rfl) (by rw [softReset_eq]; rfl)
    (by rw [softReset_eq]; rfl)

theorem hardwareReset_inv (s : State) : (hardwareReset s).Inv := by
  have hm : (hardwareReset s).memWf = true := by
    rw [memWf_iff]
    intro sp
    rw [hardwareReset_buf]
    exact scrub_wf _ _
  exact inv_of_clear hm nofun rfl rfl rfl

/-! ### Bus transactions -/

theorem issue_inv {s : State} (h : s.memWf = true) (w : Word) : (issue s w).Inv :=
  inv_of_clear h (fun _ => rfl) rfl rfl rfl

theorem writeCtrl_inv {s : State} (h : s.Inv) (v : Word) : (writeCtrl s v).Inv := by
  rw [writeCtrl]
  split
  · exact softReset_inv h.1
  · exact h

/-- CLRDONE can only clear DONE. -/
theorem writeStatus_inv {s : State} (h : s.Inv) (v : Word) : (writeStatus s v).Inv := by
  obtain ⟨hm, hst, hdet⟩ := h
  obtain ⟨hdone, herr⟩ := (statusWf_iff s).1 hst
  refine ⟨hm, (statusWf_iff _).2 ⟨fun hb => ?_, herr⟩, hdet⟩
  rw [writeStatus_done, hdone hb, Bool.false_and]

/-- A register write to an idle block keeps the invariant; the operand registers are no part of it. -/
theorem writeRegIdle_inv {s t : State} {r : Reg} {v : Word} (h : s.Inv) (hw : writeRegIdle s r v = some t) :
    t.Inv := by
  cases r <;> cases hw
  case ctrl.refl => exact writeCtrl_inv h v
  case status.refl => exact writeStatus_inv h v
  case cmd.refl => exact issue_inv h.1 v
  all_goals exact h

theorem writeReg_inv {s t : State} {r : Reg} {v : Word} (h : s.Inv) (hw : writeReg s r v = some t) : t.Inv := by
  cases hb : s.busy with
  | false =>
    rw [writeReg_idle hb] at hw
    exact writeRegIdle_inv h hw
  | true =>
    rw [writeReg_busy hb] at hw
    split at hw
    · obtain rfl := Option.some.inj hw
      exact writeCtrl_inv h v
    · cases hw

theorem busWrite_inv {s t : State} {bits a data : Nat} (h : s.Inv) (hw : busWrite s bits a data = some t) : t.Inv := by
  rcases busWrite_cases s bits a data with ⟨r, -, -, he⟩ | ⟨sp, i, -, hi, -, -, he⟩ | he <;> rw [he] at hw
  · exact writeReg_inv h hw
  · obtain rfl := Option.some.inj hw
    obtain ⟨hm, hst, hdet⟩ := h
    refine ⟨withBuf_memWf hm (writeByte_wf _ ((memWf_iff s).1 hm sp) hi), ?_, ?_⟩
    · cases sp <;> exact hst
    · cases sp <;> exact hdet
  · cases hw

/-- A bus transaction keeps the invariant; the reply is no part of it. -/
theorem busStep_inv {s : State} (h : s.Inv) (x : BusTx) : (busStep s x).Inv := by
  cases x with
  | read bits a => exact h
  | write bits a data =>
    cases hw : busWrite s bits a data with
    | none => rw [busStep_write_of_none hw]; exact h
    | some t =>
      have ht : t.Inv := busWrite_inv h hw
      rw [busStep_write_of_some hw]; exact ht

/-! ### Steps -/

/-- Settles O57: by what a step can do, the agenda being no part of the invariant. -/
theorem everyStepKeepsTheInvariant : Obligations.EveryStepKeepsTheInvariant := by
  intro s t h hst
  have hrest (rest : List Event) : (s.withAgenda rest).Inv := h
  rcases step_cases s with ⟨_, he⟩ | ⟨rest, _, he⟩ | ⟨x, rest, _, he⟩ | ⟨rest, _, he⟩ <;> rw [he] at hst
  · exact engineStep_inv h hst
  · exact engineStep_inv (hrest rest) hst
  · obtain rfl := Host.Outcome.next.inj hst
    exact busStep_inv (hrest rest) x
  · obtain rfl := Host.Outcome.next.inj hst
    exact hardwareReset_inv _

end Sys2Proof.Machine

/-! PROOFS of the family 10_state.md. What a command writes and what its results depend on (10_state.md R29): the frame
of the nine commands, and one lemma per command that its outcomes on states with the same reads set agree. -/

namespace Sys2Proof.Machine

/-! ### Writes -/

/-- Settles O55: an error writes completion registers only, and each success is one named update of the state. -/
theorem commandsWriteOnlyTheirListedState : Obligations.CommandsWriteOnlyTheirListedState := by
  intro i s t ht
  obtain rfl := exec_eq_next.1 ht
  rcases outcome_cases s i with ⟨u, hu, hs⟩ | ⟨e, he, -⟩
  · rw [hu, complete_ok]
    cases hs <;> simp
  · simp [he]

/-! ### Values read, on states that agree on a reads set -/

section Agreement

variable {s s' : State}

theorem message_congr (hlen : s.msglen = s'.msglen) (hm : sameMessage s.msglen.toNat s s') :
    s.message = s'.message := by
  rw [State.message, State.message, ← hlen, readBytes, readBytes]
  refine List.map_congr_left fun j hj => ?_
  rw [Nat.zero_add]
  exact hm j (List.mem_range.1 hj)

theorem stream_congr (hlen : s.bitlen = s'.bitlen)
    (hb : ∀ k < s.bitlen.toNat, bitRead s.bits k = bitRead s'.bits k) : s.stream = s'.stream := by
  rw [State.stream, State.stream, ← hlen]
  exact List.map_congr_left fun k hk => hb k (List.mem_range.1 hk)

theorem extractBits_congr {cpp n : Nat} {pix pix' : Buffer} (h : ∀ k < n, lsbAt cpp pix k = lsbAt cpp pix' k) :
    extractBits cpp pix n = extractBits cpp pix' n :=
  List.map_congr_left fun k hk => h k (List.mem_range.1 hk)

theorem sameGeometry.cpp_eq (h : sameGeometry s s') : s.cpp = s'.cpp := by
  rw [State.cpp, State.cpp, h.2]

theorem sameGeometry.cap_eq (h : sameGeometry s s') : s.cap = s'.cap := by
  simp only [State.cap, State.imgW, State.imgH, h.1]

theorem sameGeometry.geomOk_eq (h : sameGeometry s s') : s.geomOk = s'.geomOk := by
  rw [Bool.eq_iff_iff, geomOk_iff, geomOk_iff, State.imgW, State.imgH, State.imgW, State.imgH, h.cpp_eq, h.1]

/-! ### Values written over different buffers -/

theorem readByte_writeBytes_congr (sp : BufId) (b b' : Buffer) {l : List Byte} {a : Nat} (ha : a < l.length) :
    readByte sp (writeBytes b 0 l) a = readByte sp (writeBytes b' 0 l) a := by
  rw [readByte_writeBytes_zero_of_lt _ _ ha, readByte_writeBytes_zero_of_lt _ _ ha]

theorem readByte_writeStream_congr (b b' : Buffer) {l : List Bool} {a : Nat} (ha : a < (l.length + 7) / 8) :
    readByte .bits (writeStream b l) a = readByte .bits (writeStream b' l) a :=
  readByte_writeBytes_congr .bits b b' (by rwa [streamBytes_length])

/-- The same stream embedded in two carriers that agree where it goes leaves them agreeing there, bits 7:1 being the
carrier's (44_stegocodec.md R195). -/
theorem sameCarrier_embedBits {l : List Bool} {n : Nat} (hl : l.length = n) (h : sameCarrier n s s') :
    sameCarrier n (s.withPix (embedBits s.cpp s.pix l)) (s'.withPix (embedBits s.cpp s'.pix l)) := by
  subst hl
  intro k hk
  calc readByte .pix (embedBits s.cpp s.pix l) (pos s.cpp k)
      = setLsb (readByte .pix s.pix (pos s.cpp k)) l[k] := readByte_embedBits_pos (cpp_ge s) _ _ k hk
    _ = setLsb (readByte .pix s'.pix (pos s.cpp k)) l[k] := by rw [h k hk]
    _ = readByte .pix (embedBits s.cpp s'.pix l) (pos s.cpp k) := (readByte_embedBits_pos (cpp_ge s) _ _ k hk).symm

theorem withMessage_agree (m : List Byte) (k : Kind) :
    (s.withMessage m k).kind = (s'.withMessage m k).kind ∧ (s.withMessage m k).msglen = (s'.withMessage m k).msglen ∧
      sameMessage (s.withMessage m k).msglen.toNat (s.withMessage m k) (s'.withMessage m k) := by
  refine ⟨rfl, rfl, fun j hj => readByte_writeBytes_congr .msg _ _ (hj.trans_le ?_)⟩
  rw [State.withMessage_msglen, BitVec.toNat_ofNat]
  exact Nat.mod_le _ _

/-! ### Outcomes -/

/-- Two outcomes of a command issued in state `s` agree: both the same error, or both a success with the same values
written (10_state.md R29). -/
def OutcomesAgree (s : State) (i : Instr) : CmdOutcome → CmdOutcome → Prop
  | .ok t, .ok t' => writesAgree s t t' i
  | .error e, .error e' => e = e'
  | _, _ => False

theorem dpubOutcome_agree (h : readsAgree s s' .dpub) : OutcomesAgree s .dpub (dpubOutcome s) (dpubOutcome s') := by
  have hpriv : s.priv = s'.priv := h
  rw [dpubOutcome, dpubOutcome, ← hpriv]
  split <;> rfl

theorem dsecOutcome_agree (h : readsAgree s s' .dsec) : OutcomesAgree s .dsec (dsecOutcome s) (dsecOutcome s') := by
  obtain ⟨hpriv, hpub⟩ := h
  rw [dsecOutcome, dsecOutcome, ← hpriv, ← hpub]
  split_ifs <;> rfl

theorem xformOutcome_agree (h : readsAgree s s' .xform) :
    OutcomesAgree s .xform (xformOutcome s) (xformOutcome s') := by
  obtain ⟨hsec, hlen, hm⟩ := h
  rw [xformOutcome, xformOutcome, State.msglenOk, State.msglenOk, ← hsec, ← hlen, ← message_congr hlen hm]
  split_ifs
  · rfl
  · rfl
  · exact fun j hj => readByte_writeBytes_congr .msg _ _ (by rwa [transform_length, message_length])

theorem frameOutcome_agree (h : readsAgree s s' .frame) :
    OutcomesAgree s .frame (frameOutcome s) (frameOutcome s') := by
  obtain ⟨hlen, hkind, hm⟩ := h
  rw [frameOutcome, frameOutcome, State.msglenOk, State.msglenOk, ← hkind, ← hlen, ← message_congr hlen hm]
  split_ifs
  · rfl
  · refine ⟨rfl, fun a ha => readByte_writeStream_congr _ _ ?_⟩
    rwa [frameBits_length, message_length, frameLen_eq]

theorem unframeOutcome_agree (h : readsAgree s s' .unframe) :
    OutcomesAgree s .unframe (unframeOutcome s) (unframeOutcome s') := by
  obtain ⟨hlen, hb⟩ := h
  rw [unframeOutcome, unframeOutcome, State.bitlenOk, State.bitlenOk, ← hlen, ← stream_congr hlen hb]
  split_ifs
  · rfl
  · rcases unframeBits s.stream with _ | ⟨m, k⟩
    · rfl
    · exact withMessage_agree m k

theorem embedOutcome_agree (h : readsAgree s s' .embed) :
    OutcomesAgree s .embed (embedOutcome s) (embedOutcome s') := by
  obtain ⟨hlen, hb, hg, hc⟩ := h
  rw [embedOutcome, embedOutcome, State.bitlenOk, State.bitlenOk, ← hlen, ← stream_congr hlen hb, ← hg.geomOk_eq,
    ← hg.cap_eq, ← hg.cpp_eq]
  split_ifs
  · rfl
  · rfl
  · rfl
  · exact sameCarrier_embedBits (stream_length s) hc

theorem extractOutcome_agree (h : readsAgree s s' .extract) :
    OutcomesAgree s .extract (extractOutcome s) (extractOutcome s') := by
  obtain ⟨hmax, hg, hpix⟩ := h
  have hn : s.extractLen = s'.extractLen := by rw [State.extractLen, State.extractLen, hmax, hg.cap_eq]
  have hbits : extractBits s.cpp s.pix s.extractLen = extractBits s.cpp s'.pix s.extractLen := extractBits_congr hpix
  rw [extractOutcome, extractOutcome, ← hg.geomOk_eq, ← hn, ← hg.cpp_eq, ← hbits]
  split_ifs
  · rfl
  · refine ⟨rfl, fun a ha => readByte_writeStream_congr _ _ ?_⟩
    rwa [extractBits_length]

theorem encodeOutcome_agree (h : readsAgree s s' .encode) :
    OutcomesAgree s .encode (encodeOutcome s) (encodeOutcome s') := by
  obtain ⟨hpriv, hpub, hkind, hlen, hm, hg, hc⟩ := h
  have hframe : s.encodedFrame = s'.encodedFrame := by
    rw [State.encodedFrame, State.encodedFrame, hpriv, hpub, hkind, message_congr hlen hm]
  rw [encodeOutcome, encodeOutcome, State.msglenOk, State.msglenOk, ← hlen, ← hpriv, ← hpub, ← hframe,
    ← hg.geomOk_eq, ← hg.cap_eq, ← hg.cpp_eq]
  split_ifs
  · rfl
  · rfl
  · rfl
  · rfl
  · rfl
  · exact sameCarrier_embedBits (encodedFrame_length s) hc

theorem decodeOutcome_agree (h : readsAgree s s' .decode) :
    OutcomesAgree s .decode (decodeOutcome s) (decodeOutcome s') := by
  obtain ⟨hpriv, hpub, hg, hpix⟩ := h
  rw [decodeOutcome, decodeOutcome, ← hpriv, ← hpub, ← hg.geomOk_eq, ← hg.cap_eq, ← hg.cpp_eq,
    ← extractBits_congr hpix]
  split_ifs
  · rfl
  · rfl
  · rfl
  · rfl
  · rcases unframeBits (extractBits s.cpp s.pix s.cap) with _ | ⟨c, k⟩
    · rfl
    · exact withMessage_agree _ k

theorem outcome_agree {i : Instr} (h : readsAgree s s' i) : OutcomesAgree s i (outcome s i) (outcome s' i) := by
  cases i with
  | dpub => exact dpubOutcome_agree h
  | dsec => exact dsecOutcome_agree h
  | xform => exact xformOutcome_agree h
  | frame => exact frameOutcome_agree h
  | unframe => exact unframeOutcome_agree h
  | embed => exact embedOutcome_agree h
  | extract => exact extractOutcome_agree h
  | encode => exact encodeOutcome_agree h
  | decode => exact decodeOutcome_agree h

/-- The completion registers are in no command's "writes on OK" set. -/
theorem writesAgree_completeOk {t t' : State} {i : Instr} (h : writesAgree s t t' i) :
    writesAgree s (completeOk t) (completeOk t') i := by
  cases i <;> exact h

end Agreement

/-- Settles O56: the completions of outcomes that agree. -/
theorem resultsDependOnlyOnTheReadsSet : Obligations.ResultsDependOnlyOnTheReadsSet := by
  intro i s s' t t' hreads ht ht'
  obtain rfl := exec_eq_next.1 ht
  obtain rfl := exec_eq_next.1 ht'
  have hagree := outcome_agree hreads
  rcases ho : outcome s i with e | u <;> rcases ho' : outcome s' i with e' | u' <;> rw [ho, ho'] at hagree
  · obtain rfl : e = e' := hagree
    refine ⟨rfl, rfl, rfl, fun hok => ?_⟩
    obtain ⟨u, hu⟩ := complete_err_ok_iff.1 hok
    cases hu
  · cases hagree
  · cases hagree
  · exact ⟨rfl, rfl, rfl, fun _ => writesAgree_completeOk hagree⟩

end Sys2Proof.Machine

/-! PROOFS of the family 20_memory.md. The port: which transactions end in an error, what one that does leaves, and what
a read or a byte write answers (20_memory.md R61 to R66, R73, R75). -/

namespace Sys2Proof.Machine

/-! ### Buffers by name under updates that keep them -/

@[simp] theorem State.buf_withReply (s : State) (r : Reply) (sp : BufId) : (s.withReply r).buf sp = s.buf sp := rfl

@[simp] theorem State.buf_withAgenda (s : State) (l : List Event) (sp : BufId) :
    (s.withAgenda l).buf sp = s.buf sp := rfl

@[simp] theorem buf_completeOk (s : State) (sp : BufId) : (completeOk s).buf sp = s.buf sp := rfl

@[simp] theorem buf_raiseError (s : State) (e : CmdError) (sp : BufId) : (raiseError s e).buf sp = s.buf sp := rfl

@[simp] theorem State.busy_withBuf (s : State) (sp : BufId) (b : Buffer) : (s.withBuf sp b).busy = s.busy := by
  cases sp <;> rfl

/-! ### When a transaction ends in an error -/

theorem reply_busStep_read (s : State) (bits a : Nat) :
    (busStep s (.read bits a)).reply = some (busRead s bits a) := rfl

theorem reply_busStep_write_eq_error_iff (s : State) (bits a data : Nat) :
    (busStep s (.write bits a data)).reply = some .error ↔ busWrite s bits a data = none := by
  cases h : busWrite s bits a data with
  | none => simp [busStep_write_of_none h]
  | some t => simp [busStep_write_of_some h]

/-- Settles O11: a read changes the reply alone, and a write that ends in an error is no write. -/
theorem busErrorChangesNothing : Obligations.BusErrorChangesNothing := by
  intro s x h
  cases x with
  | read bits a =>
    obtain herr : busRead s bits a = .error := Option.some.inj h
    rw [busStep, herr]; rfl
  | write bits a data =>
    rw [reply_busStep_write_eq_error_iff] at h
    exact busStep_write_of_none h

theorem exists_regOffset_eq_iff (a : Nat) : (∃ r, a = regOffset r) ↔ a ∈ allRegs.map regOffset := by
  simp only [List.mem_map, eq_comm (a := a)]
  exact ⟨fun ⟨r, h⟩ => ⟨r, by cases r <;> decide, h⟩, fun ⟨r, _, h⟩ => ⟨r, h⟩⟩

/-- The three buffers' ranges of the address map (20_memory.md R61). -/
theorem exists_buffer_byte_iff (a : Nat) :
    (∃ sp i, i < bufSize sp ∧ a = bufBase sp + i) ↔
      (0x10000 ≤ a ∧ a ≤ 0x17FFF) ∨ (0x20000 ≤ a ∧ a ≤ 0x28004) ∨ (0x40000 ≤ a ∧ a ≤ 0x7FFFF) := by
  constructor
  · rintro ⟨sp, i, hi, rfl⟩
    cases sp <;> simp only [bufBase, bufSize_msg, bufSize_bits, bufSize_pix] at hi ⊢ <;> omega
  · rintro (h | h | h)
    · exact ⟨.msg, a - 0x10000, by rw [bufSize_msg]; omega, by rw [bufBase]; omega⟩
    · exact ⟨.bits, a - 0x20000, by rw [bufSize_bits]; omega, by rw [bufBase]; omega⟩
    · exact ⟨.pix, a - 0x40000, by rw [bufSize_pix]; omega, by rw [bufBase]; omega⟩

theorem busRead_eq_error_iff (s : State) (bits a : Nat) :
    busRead s bits a = .error ↔
      ¬((bits = 32 ∧ ∃ r, a = regOffset r) ∨
        (bits = 8 ∧ s.busy = false ∧ ∃ sp i, i < bufSize sp ∧ a = bufBase sp + i)) := by
  constructor
  · rintro herr (⟨rfl, r, rfl⟩ | ⟨rfl, hb, sp, i, hi, rfl⟩)
    · rw [busRead_reg] at herr; cases herr
    · rw [busRead_buffer s sp hi, hb, if_neg Bool.false_ne_true] at herr; cases herr
  · intro hno
    rcases busRead_cases s bits a with ⟨r, hbits, ha, -⟩ | ⟨sp, i, hbits, hi, ha, hb, -⟩ | herr
    · exact absurd (.inl ⟨hbits, r, ha⟩) hno
    · exact absurd (.inr ⟨hbits, hb, sp, i, hi, ha⟩) hno
    · exact herr

/-- Settles O12: the listed offsets are those of the registers, the ranges those of the buffers. -/
theorem readErrorsAreExactly : Obligations.ReadErrorsAreExactly := by
  intro s bits a
  rw [reply_busStep_read, Option.some.injEq, busRead_eq_error_iff, exists_regOffset_eq_iff, exists_buffer_byte_iff]
  rfl

/-- The registers the host writes on an idle block only (10_state.md R39, 40_command_protocol.md R126). -/
def idleWritableRegs : List Reg :=
  [.status, .cmd, .priv, .pub, .secret, .kind, .msglen, .bitlen, .maxbits, .imgdim, .imgcfg]

theorem writeRegIdle_eq_none_iff (s : State) (r : Reg) (v : Word) :
    writeRegIdle s r v = none ↔ ¬(r = .ctrl ∨ r ∈ idleWritableRegs) := by
  cases r <;> simp [writeRegIdle, idleWritableRegs]

theorem writeReg_eq_none_iff (s : State) (r : Reg) (v : Word) :
    writeReg s r v = none ↔ ¬(r = .ctrl ∨ (s.busy = false ∧ r ∈ idleWritableRegs)) := by
  cases hb : s.busy with
  | false => rw [writeReg_idle hb, writeRegIdle_eq_none_iff]; simp
  | true => rw [writeReg_busy hb]; simp

theorem exists_idleWritableRegs_iff (a : Nat) :
    (∃ r ∈ idleWritableRegs, a = regOffset r) ↔ a ∈ idleWritableRegs.map regOffset := by
  simp only [List.mem_map, eq_comm (a := a)]

theorem busWrite_eq_none_iff (s : State) (bits a data : Nat) :
    busWrite s bits a data = none ↔
      ¬((bits = 32 ∧ a = regOffset .ctrl) ∨
        (bits = 32 ∧ s.busy = false ∧ ∃ r ∈ idleWritableRegs, a = regOffset r) ∨
        (bits = 8 ∧ s.busy = false ∧ ∃ sp i, i < bufSize sp ∧ a = bufBase sp + i)) := by
  constructor
  · rintro herr (⟨rfl, rfl⟩ | ⟨rfl, hb, r, hr, rfl⟩ | ⟨rfl, hb, sp, i, hi, rfl⟩)
    · rw [busWrite_regOffset, writeReg_eq_none_iff] at herr
      exact herr (.inl rfl)
    · rw [busWrite_regOffset, writeReg_eq_none_iff] at herr
      exact herr (.inr ⟨hb, hr⟩)
    · simp [busWrite, regionOf_buffer sp hi, hb] at herr
  · intro hno
    rcases busWrite_cases s bits a data with ⟨r, hbits, ha, he⟩ | ⟨sp, i, hbits, hi, ha, hb, -⟩ | he
    · rw [he, writeReg_eq_none_iff]
      rintro (rfl | ⟨hb, hr⟩)
      · exact hno (.inl ⟨hbits, ha⟩)
      · exact hno (.inr (.inl ⟨hbits, hb, r, hr, ha⟩))
    · exact absurd (.inr (.inr ⟨hbits, hb, sp, i, hi, ha⟩)) hno
    · exact he

/-- Settles O13: the listed offsets are those of the writable registers, the ranges those of the buffers. -/
theorem writeErrorsAreExactly : Obligations.WriteErrorsAreExactly := by
  intro s bits a data
  rw [reply_busStep_write_eq_error_iff, busWrite_eq_none_iff, exists_idleWritableRegs_iff, exists_buffer_byte_iff]
  rfl

/-! ### Accesses to buffers -/

theorem busStep_read_buffer_idle {s : State} (hb : s.busy = false) (sp : BufId) {i : Nat} (hi : i < bufSize sp) :
    busStep s (.read 8 (bufBase sp + i)) = s.withReply (.byte (readByte sp (s.buf sp) i)) := by
  rw [busStep, busRead_buffer s sp hi, hb, if_neg Bool.false_ne_true]

theorem busStep_read_buffer_busy {s : State} (hb : s.busy = true) (sp : BufId) {i : Nat} (hi : i < bufSize sp) :
    busStep s (.read 8 (bufBase sp + i)) = s.withReply .error := by
  rw [busStep, busRead_buffer s sp hi, hb, if_pos rfl]

theorem busStep_write_buffer_idle {s : State} (hb : s.busy = false) (sp : BufId) {i : Nat} (hi : i < bufSize sp)
    (b : Byte) :
    busStep s (.write 8 (bufBase sp + i) b.toNat) =
      (s.withBuf sp (writeByte (s.buf sp) i b)).withReply .written :=
  busStep_write_of_some (by rw [busWrite_buffer s sp hi, hb, if_neg Bool.false_ne_true])

/-- A byte write to one buffer leaves every other byte of every buffer. -/
theorem readByte_withBuf_writeByte_of_ne (s : State) {sp sp' : BufId} {i j : Nat} (b : Byte)
    (h : ¬(sp' = sp ∧ j = i)) :
    readByte sp' ((s.withBuf sp (writeByte (s.buf sp) i b)).buf sp') j = readByte sp' (s.buf sp') j := by
  by_cases hsp : sp' = sp
  · subst hsp
    rw [State.buf_withBuf_self, readByte_writeByte_of_ne _ _ _ fun hj => h ⟨rfl, hj⟩]
  · rw [State.buf_withBuf_of_ne _ _ _ _ hsp]

/-- Settles O19. -/
theorem bufferByteWriteReadsBack : Obligations.BufferByteWriteReadsBack := by
  intro s sp i b hb hi
  have hengine : readByte sp ((s.withBuf sp (writeByte (s.buf sp) i b)).buf sp) i = b := by
    rw [State.buf_withBuf_self, readByte_writeByte_self]
  refine ⟨_, busStep_write_buffer_idle hb sp hi b, rfl, ?_, hengine,
    fun sp' j h => readByte_withBuf_writeByte_of_ne s b h, ?_⟩
  · rw [busStep_read_buffer_idle (by simpa using hb) sp hi, State.buf_withReply, hengine]; rfl
  · cases sp <;> rfl

/-- Settles O20. -/
theorem busyBlockRefusesTheHost : Obligations.BusyBlockRefusesTheHost := by
  intro s hb
  refine ⟨fun sp i b hi => ⟨?read, ?write⟩, fun r v hr => ?reg⟩
  case read => exact busStep_read_buffer_busy hb sp hi
  case write => exact busStep_write_of_none (by rw [busWrite_buffer s sp hi, hb, if_pos rfl])
  case reg => exact busStep_write_of_none (by rw [busWrite_reg, writeReg_busy hb, if_neg hr])

/-! ### What the registers read as -/

theorem CompletionCode.num_le (c : CompletionCode) : c.num ≤ 5 := by cases c <;> decide

theorem ctrlWord_eq_ite (s : State) : ctrlWord s = if s.ie then 1 else 0 := by
  cases h : s.ie <;> simp [ctrlWord, h]

theorem imgcfgWord_eq_ite (s : State) : imgcfgWord s = if s.alpha then 1 else 0 := by
  cases h : s.alpha <;> simp [imgcfgWord, h]

theorem kindWord_eq_ite (s : State) : kindWord s = if s.kind = .binary then 1 else 0 := by
  cases h : s.kind <;> simp [kindWord, h, Kind.bit]

/-- STATUS as a number; it fits the register with room to spare, the largest code being 5. -/
theorem statusWord_toNat (s : State) :
    (statusWord s).toNat = s.busy.toNat + 2 * s.done.toNat + 16 * s.err.num := by
  have hbusy := s.busy.toNat_le
  have hdone := s.done.toNat_le
  have herr := s.err.num_le
  rw [statusWord, BitVec.toNat_ofNat, Nat.mod_eq_of_lt (by omega)]

theorem statusWord_busy (s : State) : (statusWord s).getLsbD 0 = s.busy := by
  have hbusy := s.busy.toNat_le
  have hmod : (s.busy.toNat + 2 * s.done.toNat + 16 * s.err.num) % 2 = s.busy.toNat := by omega
  rw [BitVec.getLsbD, statusWord_toNat, Nat.testBit_zero, hmod]
  cases s.busy <;> rfl

theorem statusWord_done (s : State) : (statusWord s).getLsbD 1 = s.done := by
  have hbusy := s.busy.toNat_le
  have hdone := s.done.toNat_le
  have hmod : (s.busy.toNat + 2 * s.done.toNat + 16 * s.err.num) / 2 % 2 = s.done.toNat := by omega
  rw [BitVec.getLsbD, statusWord_toNat, Nat.testBit_succ, Nat.testBit_zero, hmod]
  cases s.done <;> rfl

/-- A field of STATUS as a number. -/
theorem statusWord_field_toNat (s : State) (lo len : Nat) :
    ((statusWord s).extractLsb' lo len).toNat =
      (s.busy.toNat + 2 * s.done.toNat + 16 * s.err.num) / 2 ^ lo % 2 ^ len := by
  rw [BitVec.extractLsb'_toNat, statusWord_toNat, Nat.shiftRight_eq_div_pow]

theorem statusWord_err (s : State) : (statusWord s).extractLsb' 4 4 = BitVec.ofNat 4 s.err.num := by
  have hbusy := s.busy.toNat_le
  have hdone := s.done.toNat_le
  apply BitVec.eq_of_toNat_eq
  rw [statusWord_field_toNat, BitVec.toNat_ofNat]
  omega

theorem statusWord_reserved_low (s : State) : (statusWord s).extractLsb' 2 2 = 0 := by
  have hbusy := s.busy.toNat_le
  have hdone := s.done.toNat_le
  apply BitVec.eq_of_toNat_eq
  rw [statusWord_field_toNat, show (0 : BitVec 2).toNat = 0 from rfl]
  omega

theorem statusWord_reserved_high (s : State) : (statusWord s).extractLsb' 8 24 = 0 := by
  have hbusy := s.busy.toNat_le
  have hdone := s.done.toNat_le
  have herr := s.err.num_le
  apply BitVec.eq_of_toNat_eq
  rw [statusWord_field_toNat, show (0 : BitVec 24).toNat = 0 from rfl]
  omega

/-- While busy STATUS reads 1: the invariant keeps DONE and ERR clear. -/
theorem statusWord_of_busy {s : State} (h : s.Inv) (hb : s.busy = true) : statusWord s = 1 := by
  obtain ⟨hdone, herr⟩ := (statusWf_iff s).1 h.2.1
  rw [statusWord, hb, hdone hb, herr hb]; rfl

/-- Settles O14: a read is a note of `busRead`, which `readReg` answers for a register and `readByte` for a byte. -/
theorem readsChangeNothing : Obligations.ReadsChangeNothing := by
  refine ⟨fun s bits a => ⟨_, rfl⟩, fun s r => ?reg, fun s a v hav => ?offsets, fun s => ?status, fun s hb => ?bytes⟩
  case reg => rw [busStep_readReg]; rfl
  case offsets =>
    obtain ⟨r, rfl, rfl⟩ : ∃ r, a = regOffset r ∧ v = readReg s r := by
      rw [← ctrlWord_eq_ite, ← kindWord_eq_ite, ← imgcfgWord_eq_ite] at hav
      simp only [List.mem_cons, Prod.mk.injEq, List.not_mem_nil, or_false] at hav
      rcases hav with ⟨rfl, rfl⟩ | ⟨rfl, rfl⟩ | ⟨rfl, rfl⟩ | ⟨rfl, rfl⟩ | ⟨rfl, rfl⟩ | ⟨rfl, rfl⟩ | ⟨rfl, rfl⟩ |
        ⟨rfl, rfl⟩ | ⟨rfl, rfl⟩ | ⟨rfl, rfl⟩ | ⟨rfl, rfl⟩ | ⟨rfl, rfl⟩ | ⟨rfl, rfl⟩ | ⟨rfl, rfl⟩
      · exact ⟨.ctrl, rfl, rfl⟩
      · exact ⟨.status, rfl, rfl⟩
      · exact ⟨.cmd, rfl, rfl⟩
      · exact ⟨.reqbits, rfl, rfl⟩
      · exact ⟨.availbits, rfl, rfl⟩
      · exact ⟨.priv, rfl, rfl⟩
      · exact ⟨.pub, rfl, rfl⟩
      · exact ⟨.secret, rfl, rfl⟩
      · exact ⟨.kind, rfl, rfl⟩
      · exact ⟨.msglen, rfl, rfl⟩
      · exact ⟨.bitlen, rfl, rfl⟩
      · exact ⟨.maxbits, rfl, rfl⟩
      · exact ⟨.imgdim, rfl, rfl⟩
      · exact ⟨.imgcfg, rfl, rfl⟩
    exact busStep_readReg s r
  case status =>
    refine ⟨statusWord_busy s, statusWord_done s, fun c n hcn hc => ?_, statusWord_reserved_low s,
      statusWord_reserved_high s, statusWord_of_busy⟩
    obtain rfl : n = BitVec.ofNat 4 c.num := by
      simp only [List.mem_cons, Prod.mk.injEq, List.not_mem_nil, or_false] at hcn
      rcases hcn with ⟨rfl, rfl⟩ | ⟨rfl, rfl⟩ | ⟨rfl, rfl⟩ | ⟨rfl, rfl⟩ | ⟨rfl, rfl⟩ | ⟨rfl, rfl⟩ <;> rfl
    rw [← hc]
    exact statusWord_err s
  case bytes =>
    exact ⟨fun i hi => busStep_read_buffer_idle hb .msg hi, fun i hi => busStep_read_buffer_idle hb .bits hi,
      fun i hi => busStep_read_buffer_idle hb .pix hi⟩

end Sys2Proof.Machine

/-! PROOFS of the family 20_memory.md. A bitstream written as bytes and bit by bit (R70): both are followed bit by bit
through `bitRead`, and a byte of BITS is its eight bits. -/

namespace Sys2Proof.Machine

/-- The bits of a stream written with `bitWrite` at positions `k`, `k + 1`, … in turn (20_memory.md R70). -/
def bitWrites (buf : Buffer) (k : Nat) (l : List Bool) : Buffer :=
  (l.zipIdx k).foldl (fun b p => bitWrite b p.2 p.1) buf

@[simp] theorem bitWrites_nil (buf : Buffer) (k : Nat) : bitWrites buf k [] = buf := rfl

@[simp] theorem bitWrites_cons (buf : Buffer) (k : Nat) (b : Bool) (l : List Bool) :
    bitWrites buf k (b :: l) = bitWrites (bitWrite buf k b) (k + 1) l := rfl

theorem bitRead_bitWrites (buf : Buffer) (k j : Nat) (l : List Bool) :
    bitRead (bitWrites buf k l) j = if k ≤ j ∧ j < k + l.length then l.getD (j - k) false else bitRead buf j := by
  induction l generalizing buf k with
  | nil => rw [bitWrites_nil, if_neg (by simp)]
  | cons b l ih =>
    rw [bitWrites_cons, ih, bitRead_bitWrite, List.length_cons]
    rcases Nat.lt_trichotomy j k with hlt | rfl | hgt
    · rw [if_neg (by omega), if_neg (by omega), if_neg (by omega)]
    · rw [if_neg (by omega), if_pos rfl, if_pos (by omega), Nat.sub_self, List.getD_cons_zero]
    · have hpred : j - k = (j - (k + 1)) + 1 := by omega
      rw [hpred, List.getD_cons_succ, if_neg (show j ≠ k by omega)]
      exact if_congr (by omega) rfl rfl

/-- Every bit of BITS after a stream is written: the stream, 0 to the end of its last byte, and what was there
(20_memory.md R70). -/
theorem bitRead_writeStream_eq_ite (buf : Buffer) (l : List Bool) (k : Nat) :
    bitRead (writeStream buf l) k = if k < 8 * ((l.length + 7) / 8) then l.getD k false else bitRead buf k := by
  split
  case isTrue h => exact bitRead_writeStream buf l k h
  case isFalse h => rw [bitRead, readByte_writeStream_of_ge _ _ _ (by omega), bitRead]

/-- Two contents of BITS with the same bits have the same bytes. -/
theorem readByte_congr_of_bitRead {b b' : Buffer} (h : ∀ k, bitRead b k = bitRead b' k) (a : Nat) :
    readByte .bits b a = readByte .bits b' a := by
  refine byte_ext fun t ht => ?_
  have hbit := h (8 * a + t)
  rwa [bitRead, bitRead, show (8 * a + t) / 8 = a by omega, show (8 * a + t) % 8 = t by omega] at hbit

theorem getD_append_replicate_false (l : List Bool) (n k : Nat) :
    (l ++ List.replicate n false).getD k false = l.getD k false := by
  rcases Nat.lt_or_ge k l.length with hk | hk
  · rw [List.getD_append _ _ _ _ hk]
  · rw [List.getD_append_right _ _ _ _ hk, List.getD_eq_default _ _ hk, List.getD_eq_getElem?_getD,
      List.getElem?_getD_replicate_default_eq]

/-- Settles O35: bit by bit. -/
theorem streamWriteIsBitByBit : Obligations.StreamWriteIsBitByBit := by
  intro buf l a
  refine readByte_congr_of_bitRead (b' := bitWrites buf 0 _) (fun k => ?_) a
  have hlen : (l ++ List.replicate (8 * ((l.length + 7) / 8) - l.length) false).length =
      8 * ((l.length + 7) / 8) := by
    rw [List.length_append, List.length_replicate]; omega
  rw [bitRead_writeStream_eq_ite, bitRead_bitWrites, hlen, getD_append_replicate_false, Nat.sub_zero]
  exact if_congr (by omega) rfl rfl

end Sys2Proof.Machine

/-! PROOFS of the family 20_memory.md. A byte that nothing has written keeps its value (R80): every step but a reset
that scrubs a buffer only adds to the list of written bytes and keeps the epoch. -/

namespace Sys2Proof.Machine

/-! ### Buffers that are only written -/

/-- `b'` is `b` after writes and nothing else, as far as unwritten bytes go: the same epoch, and no byte of `b` that was
listed as written is unlisted (log entries 3 and 5). -/
def Buffer.Grows (b b' : Buffer) : Prop :=
  b'.epoch = b.epoch ∧ ∀ a, getCell a b'.cells = none → getCell a b.cells = none

theorem Buffer.Grows.refl (b : Buffer) : b.Grows b := ⟨rfl, fun _ h => h⟩

theorem Buffer.Grows.trans {b c d : Buffer} (h : b.Grows c) (h' : c.Grows d) : b.Grows d :=
  ⟨h'.1.trans h.1, fun a ha => h.2 a (h'.2 a ha)⟩

/-- A byte listed in neither is the free value of the epoch both share (20_memory.md R80). -/
theorem Buffer.Grows.readByte_eq {b b' : Buffer} (h : b.Grows b') (sp : BufId) {a : Nat}
    (ha : getCell a b'.cells = none) : readByte sp b' a = readByte sp b a := by
  rw [readByte, readByte, ha, h.2 a ha, h.1]

theorem writeByte_grows (b : Buffer) (a : Nat) (v : Byte) : b.Grows (writeByte b a v) := by
  refine ⟨rfl, fun a' h => ?_⟩
  rw [writeByte, getCell_putCell] at h
  split at h
  · cases h
  · exact h

theorem writeBytes_grows (b : Buffer) (a : Nat) (l : List Byte) : b.Grows (writeBytes b a l) := by
  induction l generalizing b a with
  | nil => exact .refl b
  | cons v l ih => exact (writeByte_grows b a v).trans (ih _ _)

theorem embedFrom_grows (cpp : Nat) (b : Buffer) (k : Nat) (l : List Bool) : b.Grows (embedFrom cpp b k l) := by
  induction l generalizing b k with
  | nil => exact .refl b
  | cons v l ih => exact (writeByte_grows b _ _).trans (ih _ _)

/-! ### States whose buffers are only written -/

/-- Every buffer of `t` is that of `s` after writes and nothing else. -/
def State.BuffersGrow (s t : State) : Prop := ∀ sp, (s.buf sp).Grows (t.buf sp)

theorem State.BuffersGrow.refl (s : State) : s.BuffersGrow s := fun _ => .refl _

theorem State.BuffersGrow.withBuf {s : State} {sp : BufId} {b : Buffer} (h : (s.buf sp).Grows b) :
    s.BuffersGrow (s.withBuf sp b) := by
  intro sp'
  by_cases hsp : sp' = sp
  · subst hsp; rwa [State.buf_withBuf_self]
  · rw [State.buf_withBuf_of_ne _ _ _ _ hsp]; exact .refl _

theorem State.BuffersGrow.withMsg_writeBytes (s : State) (l : List Byte) :
    s.BuffersGrow (s.withMsg (writeBytes s.msg 0 l)) :=
  .withBuf (sp := .msg) (writeBytes_grows _ _ _)

theorem State.BuffersGrow.withStream (s : State) (l : List Bool) : s.BuffersGrow (s.withStream l) :=
  State.BuffersGrow.withBuf (sp := .bits) (writeBytes_grows _ _ _)

theorem State.BuffersGrow.withPix_embedBits (s : State) (l : List Bool) :
    s.BuffersGrow (s.withPix (embedBits s.cpp s.pix l)) :=
  .withBuf (sp := .pix) (embedFrom_grows _ _ _ _)

/-! ### Commands -/

theorem Succeeds.buffersGrow {s t : State} {i : Instr} (h : Succeeds s i t) : s.BuffersGrow t := by
  cases h with
  | dpub => exact .refl s
  | dsec => exact .refl s
  | xform => exact .withMsg_writeBytes s _
  | frame => exact .withStream s _
  | unframe m k => exact .withMsg_writeBytes s m
  | embed => exact .withPix_embedBits s _
  | extract => exact .withStream s _
  | encode => exact .withPix_embedBits s _
  | decode c k => exact .withMsg_writeBytes s _

theorem complete_outcome_buffersGrow (s : State) (i : Instr) : s.BuffersGrow (complete s (outcome s i)) := by
  rcases outcome_cases s i with ⟨t, ht, hs⟩ | ⟨e, he, -⟩
  · rw [ht]; exact hs.buffersGrow
  · rw [he]; exact .refl s

theorem engineStep_buffersGrow {s t : State} (h : engineStep s = .next t) : s.BuffersGrow t := by
  rcases engineStep_cases s with ⟨_, he⟩ | ⟨i, _, _, he⟩ | ⟨_, _, _, he⟩ <;>
    obtain rfl := Host.Outcome.next.inj (he.symm.trans h)
  · exact .refl s
  · exact complete_outcome_buffersGrow s i
  · exact .refl s

/-! ### Bus transactions -/

/-- A soft reset of an idle block keeps the buffers (70_reset_and_hazards.md R263). -/
theorem softReset_buffersGrow {s : State} (hb : s.busy = false) : s.BuffersGrow (softReset s) := by
  intro sp
  rw [softReset_buf, if_neg (by simp [hb])]
  exact .refl _

theorem writeCtrl_buffersGrow {s : State} {v : Word} (h : v[1] = true → s.busy = false) :
    s.BuffersGrow (writeCtrl s v) := by
  rw [writeCtrl]
  split
  case isTrue hv => exact softReset_buffersGrow (h hv)
  case isFalse => exact .refl s

/-- A register write changes no buffer but by a soft reset. -/
theorem writeReg_buffersGrow {s t : State} {r : Reg} {v : Word}
    (hc : r = .ctrl → v[1] = true → s.busy = false) (h : writeReg s r v = some t) : s.BuffersGrow t := by
  by_cases hr : r = .ctrl
  · subst hr
    obtain rfl := Option.some.inj ((writeReg_ctrl s v).symm.trans h)
    exact writeCtrl_buffersGrow (hc rfl)
  · cases hb : s.busy with
    | true => rw [writeReg_busy hb, if_neg hr] at h; cases h
    | false =>
      rw [writeReg_idle hb] at h
      cases r <;> cases h
      case ctrl.refl => exact absurd rfl hr
      all_goals exact .refl s

theorem busWrite_buffersGrow {s t : State} {bits a data : Nat}
    (hc : bits = 32 → a = regOffset .ctrl → data.testBit 1 = true → s.busy = false)
    (h : busWrite s bits a data = some t) : s.BuffersGrow t := by
  rcases busWrite_cases s bits a data with ⟨r, hbits, ha, he⟩ | ⟨sp, i, -, -, -, -, he⟩ | he <;> rw [he] at h
  · refine writeReg_buffersGrow (fun hr hv => hc hbits (hr ▸ ha) ?_) h
    rwa [ofNat_getElem_one] at hv
  · obtain rfl := Option.some.inj h
    exact .withBuf (writeByte_grows _ _ _)
  · cases h

/-- A transaction that is no soft reset of a busy block only writes. -/
theorem busStep_buffersGrow {s : State} {x : BusTx}
    (hx : ∀ data, x = .write 32 0x008 data → data.testBit 1 = true → s.busy = false) :
    s.BuffersGrow (busStep s x) := by
  cases x with
  | read bits a => exact .refl s
  | write bits a data =>
    cases hw : busWrite s bits a data with
    | none => rw [busStep_write_of_none hw]; exact .refl s
    | some t =>
      have ht : s.BuffersGrow t := busWrite_buffersGrow (fun hbits ha => hx data (by rw [hbits, ha]; rfl)) hw
      rw [busStep_write_of_some hw]; exact ht

/-! ### Steps -/

theorem step_buffersGrow {s t : State} (h : step s = .next t) (hhw : ∀ rest, s.agenda ≠ .hwReset :: rest)
    (hsoft : ∀ data rest, s.agenda = .bus (.write 32 0x008 data) :: rest → data.testBit 1 = true → s.busy = false) :
    s.BuffersGrow t := by
  rcases step_cases s with ⟨_, he⟩ | ⟨rest, _, he⟩ | ⟨x, rest, hag, he⟩ | ⟨rest, hag, _⟩
  · exact engineStep_buffersGrow (he.symm.trans h)
  · exact engineStep_buffersGrow (s := s.withAgenda rest) (he.symm.trans h)
  · obtain rfl := Host.Outcome.next.inj (he.symm.trans h)
    exact busStep_buffersGrow (s := s.withAgenda rest) fun data hx => hsoft data rest (by rw [hag, hx])
  · exact absurd hag (hhw rest)

/-- Settles O59: such a step only writes, and a byte still unlisted afterwards was unlisted before. -/
theorem unwrittenBytesAreStable : Obligations.UnwrittenBytesAreStable := by
  intro s t sp h hhw hsoft
  have hgrows : (s.buf sp).Grows (t.buf sp) := step_buffersGrow h hhw hsoft sp
  exact ⟨hgrows.1, fun a ha => hgrows.readByte_eq sp ha⟩

end Sys2Proof.Machine

/-! PROOFS of the family 30_encoding.md. The command word: the decoder and the encoder are inverse to each other, and
the legal words are 1 to 9 (R90 to R94). -/

namespace Sys2Proof

/-! ### The two fields -/

/-- ZERO is the quotient and OP the remainder of the word on division by 256 (30_encoding.md R90). -/
theorem zeroField_toNat (w : Word) : (zeroField w).toNat = w.toNat / 256 := by
  have := w.isLt
  rw [zeroField, BitVec.extractLsb'_toNat, Nat.shiftRight_eq_div_pow]
  omega

theorem opField_toNat (w : Word) : (opField w).toNat = w.toNat % 256 := by
  rw [opField, BitVec.extractLsb'_toNat, Nat.shiftRight_zero]

theorem zeroField_eq_zero_iff (w : Word) : zeroField w = 0 ↔ w.toNat < 256 := by
  rw [BitVec.toNat_eq, zeroField_toNat, BitVec.ofNat_eq_ofNat, BitVec.toNat_zero]
  omega

/-! ### The opcode map -/

/-- A command's number in the opcode map is its word (30_encoding.md R92). -/
theorem opcode_eq_some_iff (op : Byte) (i : Instr) : opcode op = some i ↔ op.toNat = (encode i).toNat := by
  constructor
  · intro h
    unfold opcode at h
    split at h <;> cases h <;> assumption
  · intro h
    cases i <;> simp only [opcode, h] <;> rfl

/-- Every word of the map is one of 1 to 9 (30_encoding.md R92). -/
theorem encode_toNat_bounds (i : Instr) : 1 ≤ (encode i).toNat ∧ (encode i).toNat ≤ 9 := by
  cases i <;> decide

/-- Every number from 1 to 9 is a word of the map (30_encoding.md R92). -/
theorem exists_encode_toNat_eq {n : Nat} (h1 : 1 ≤ n) (h9 : n ≤ 9) : ∃ i, (encode i).toNat = n := by
  interval_cases n
  exacts [⟨.dpub, rfl⟩, ⟨.dsec, rfl⟩, ⟨.xform, rfl⟩, ⟨.frame, rfl⟩, ⟨.unframe, rfl⟩, ⟨.embed, rfl⟩, ⟨.extract, rfl⟩,
    ⟨.encode, rfl⟩, ⟨.decode, rfl⟩]

/-! ### The decoder -/

/-- A word decodes to a command exactly when ZERO is 0 and OP is the command's in the map (30_encoding.md R91). -/
theorem decode_eq_ok_iff_fields (w : Word) (i : Instr) :
    decode w = .ok i ↔ zeroField w = 0 ∧ opcode (opField w) = some i := by
  rw [decode]
  split
  case isTrue hz => exact iff_of_false nofun fun h => hz h.1
  case isFalse hz =>
    rw [not_ne_iff] at hz
    cases opcode (opField w) <;> simp [hz]

/-- The decoder's inverse image of a command is its one word (30_encoding.md R91, R92). -/
theorem decode_eq_ok_iff (w : Word) (i : Instr) : decode w = .ok i ↔ w = encode i := by
  have hi := encode_toNat_bounds i
  rw [decode_eq_ok_iff_fields, zeroField_eq_zero_iff, opcode_eq_some_iff, opField_toNat, BitVec.toNat_eq]
  omega

@[simp] theorem decode_encode (i : Instr) : decode (encode i) = .ok i := (decode_eq_ok_iff _ i).2 rfl

/-- The legal words are 1 to 9 (30_encoding.md R93). -/
theorem exists_decode_eq_ok_iff (w : Word) : (∃ i, decode w = .ok i) ↔ 1 ≤ w.toNat ∧ w.toNat ≤ 9 := by
  simp only [decode_eq_ok_iff]
  constructor
  · rintro ⟨i, rfl⟩
    exact encode_toNat_bounds i
  · rintro ⟨h1, h9⟩
    obtain ⟨i, hi⟩ := exists_encode_toNat_eq h1 h9
    exact ⟨i, BitVec.eq_of_toNat_eq hi.symm⟩

/-- Settles O2: `decode_eq_ok_iff` read in both directions, and which words the encoder reaches. -/
theorem decodeAcceptsExactlyTheNineWords : Obligations.DecodeAcceptsExactlyTheNineWords :=
  ⟨decode_encode, fun w i => (decode_eq_ok_iff w i).1, exists_decode_eq_ok_iff⟩

/-- Settles O1: each word of the list is the encoder's word of its command. -/
theorem opcodeMapWordsDecode : Obligations.OpcodeMapWordsDecode :=
  ⟨decode_encode .dpub, decode_encode .dsec, decode_encode .xform, decode_encode .frame, decode_encode .unframe,
    decode_encode .embed, decode_encode .extract, decode_encode .encode, decode_encode .decode⟩

end Sys2Proof

/-! PROOFS of the family 30_encoding.md. The host's RUN (R111): commands and the registers take no part in the agenda and
the reply, the model's own fields (log entries 1 and 2), so a run is followed event by event with the block's own state
beside them. -/

namespace Sys2Proof.Machine

/-! ### The block's state beside the coming events and the latest reply -/

/-- The state with other coming events and another latest reply: what the model keeps of the host (log entries 1
and 2). -/
def State.withHost (s : State) (l : List Event) (r : Option Reply) : State := { s with agenda := l, reply := r }

section

variable (s : State) (l : List Event) (r : Option Reply)

/-! What the commands read, and the checks on it (10_state.md R29, 60_exceptions.md R235). -/

@[simp] theorem State.withHost_priv : (s.withHost l r).priv = s.priv := rfl
@[simp] theorem State.withHost_pub : (s.withHost l r).pub = s.pub := rfl
@[simp] theorem State.withHost_secret : (s.withHost l r).secret = s.secret := rfl
@[simp] theorem State.withHost_kind : (s.withHost l r).kind = s.kind := rfl
@[simp] theorem State.withHost_msglen : (s.withHost l r).msglen = s.msglen := rfl
@[simp] theorem State.withHost_bitlen : (s.withHost l r).bitlen = s.bitlen := rfl
@[simp] theorem State.withHost_busy : (s.withHost l r).busy = s.busy := rfl
@[simp] theorem State.withHost_cmd : (s.withHost l r).cmd = s.cmd := rfl
@[simp] theorem State.withHost_msg : (s.withHost l r).msg = s.msg := rfl
@[simp] theorem State.withHost_pix : (s.withHost l r).pix = s.pix := rfl
@[simp] theorem State.withHost_cpp : (s.withHost l r).cpp = s.cpp := rfl
@[simp] theorem State.withHost_cap : (s.withHost l r).cap = s.cap := rfl
@[simp] theorem State.withHost_extractLen : (s.withHost l r).extractLen = s.extractLen := rfl
@[simp] theorem State.withHost_message : (s.withHost l r).message = s.message := rfl
@[simp] theorem State.withHost_stream : (s.withHost l r).stream = s.stream := rfl
@[simp] theorem State.withHost_encodedFrame : (s.withHost l r).encodedFrame = s.encodedFrame := rfl
@[simp] theorem State.withHost_geomOk : (s.withHost l r).geomOk = s.geomOk := rfl
@[simp] theorem State.withHost_msglenOk : (s.withHost l r).msglenOk = s.msglenOk := rfl
@[simp] theorem State.withHost_bitlenOk : (s.withHost l r).bitlenOk = s.bitlenOk := rfl

@[simp] theorem readReg_withHost (reg : Reg) : readReg (s.withHost l r) reg = readReg s reg := by cases reg <;> rfl

/-! What the commands and the port write. -/

@[simp] theorem State.withHost_withPub (v : Word) : (s.withHost l r).withPub v = (s.withPub v).withHost l r := rfl
@[simp] theorem State.withHost_withSecret (v : Word) :
    (s.withHost l r).withSecret v = (s.withSecret v).withHost l r := rfl
@[simp] theorem State.withHost_withMsg (b : Buffer) : (s.withHost l r).withMsg b = (s.withMsg b).withHost l r := rfl
@[simp] theorem State.withHost_withPix (b : Buffer) : (s.withHost l r).withPix b = (s.withPix b).withHost l r := rfl
@[simp] theorem State.withHost_withStream (bs : List Bool) :
    (s.withHost l r).withStream bs = (s.withStream bs).withHost l r := rfl
@[simp] theorem State.withHost_withMessage (m : List Byte) (k : Kind) :
    (s.withHost l r).withMessage m k = (s.withMessage m k).withHost l r := rfl
@[simp] theorem State.withHost_withReply (r' : Reply) : (s.withHost l r).withReply r' = s.withHost l (some r') := rfl

/-! ### Commands -/

/-- No command reads or writes the agenda or the reply: its checks and its writes are those of the state without them
(10_state.md R29). -/
theorem outcome_withHost (i : Instr) : outcome (s.withHost l r) i = (·.withHost l r) <$> outcome s i := by
  cases i with
  | dpub => cases h : privOk s.priv <;> simp [outcome, dpubOutcome, h]
  | dsec => simp [outcome, dsecOutcome, apply_ite (Functor.map _)]
  | xform => simp [outcome, xformOutcome, apply_ite (Functor.map _)]
  | frame => simp [outcome, frameOutcome, apply_ite (Functor.map _)]
  | embed => simp [outcome, embedOutcome, apply_ite (Functor.map _)]
  | extract => simp [outcome, extractOutcome, apply_ite (Functor.map _)]
  | encode => simp [outcome, encodeOutcome, apply_ite (Functor.map _)]
  | unframe =>
    cases h : unframeBits s.stream <;> simp [outcome, unframeOutcome, h, apply_ite (Functor.map _)]
  | decode =>
    cases h : unframeBits (extractBits s.cpp s.pix s.cap) <;>
      simp [outcome, decodeOutcome, h, apply_ite (Functor.map _)]

end

theorem complete_withHost (s : State) (l : List Event) (r : Option Reply) (o : CmdOutcome) :
    complete (s.withHost l r) ((·.withHost l r) <$> o) = (complete s o).withHost l r := by
  cases o <;> rfl

/-- A command's completion step keeps whatever agenda and reply stand beside it (40_command_protocol.md R123). -/
theorem exec_withHost {s t : State} {i : Instr} (h : exec i s = .next t) (l : List Event) (r : Option Reply) :
    exec i (s.withHost l r) = .next (t.withHost l r) := by
  rw [exec_eq_next] at h ⊢
  rw [h, outcome_withHost, complete_withHost]

/-! ### One event of a run -/

theorem step_bus (s : State) (x : BusTx) (l : List Event) (r : Option Reply) :
    step (s.withHost (.bus x :: l) r) = .next (busStep (s.withHost l r) x) := rfl

/-- `RD`: only the reply changes (20_memory.md R66). -/
theorem step_readTx (s : State) (reg : Reg) (l : List Event) (r : Option Reply) :
    step (s.withHost (.bus (readTx reg) :: l) r) = .next (s.withHost l (some (.word (readReg s reg)))) := by
  rw [step_bus, readTx, busStep_readReg, readReg_withHost, State.withHost_withReply]

/-- `CMD`: the write of a command word to an idle block issues it (40_command_protocol.md R121). -/
theorem step_writeTx_cmd {s : State} (hb : s.busy = false) (w : Word) (l : List Event) (r : Option Reply) :
    step (s.withHost (.bus (writeTx .cmd w) :: l) r) = .next ((issue s w).withHost l (some .written)) := by
  have hidle : (s.withHost l r).busy = false := hb
  have hissue : writeRegIdle (s.withHost l r) .cmd w = some ((issue s w).withHost l r) := rfl
  rw [step_bus, writeTx, busStep_writeReg_idle hidle hissue, State.withHost_withReply]

/-- The engine's turn on a busy block completes the command in flight (40_command_protocol.md R124). -/
theorem step_engine {s t : State} {i : Instr} (hb : s.busy = true) (hd : decode s.cmd = .ok i)
    (h : exec i s = .next t) (l : List Event) (r : Option Reply) :
    step (s.withHost (.engine :: l) r) = .next (t.withHost l r) := by
  have hturn : step (s.withHost (.engine :: l) r) = exec i (s.withHost l r) := by
    show engineStep (s.withHost l r) = _
    simp [engineStep, fetchWord, hb, hd]
  rw [hturn, exec_withHost h]

/-! ### `WAIT` and `RUN` -/

/-- Reads of STATUS change nothing but the reply, however many there are (30_encoding.md R111). -/
theorem run_polls (s : State) (polls n : Nat) (l : List Event) (r : Option Reply) :
    ∃ r', core.run (polls + n) (s.withHost (List.replicate polls (.bus (readTx .status)) ++ l) r) =
      core.run n (s.withHost l r') := by
  induction polls generalizing r with
  | zero => exact ⟨r, by rw [Nat.zero_add]; rfl⟩
  | succ polls ih =>
    obtain ⟨r', hr'⟩ := ih (some (.word (readReg s .status)))
    refine ⟨r', ?_⟩
    rw [List.replicate_succ, List.cons_append, Nat.succ_add, core_run_succ (step_readTx s .status _ r), hr']

/-- `WAIT` on a busy block ends with what its command leaves and STATUS read (30_encoding.md R111, 40_command_protocol.md
R127). -/
theorem run_wait {s t : State} {i : Instr} (hb : s.busy = true) (hd : decode s.cmd = .ok i) (h : exec i s = .next t)
    (polls : Nat) (r : Option Reply) :
    core.run (polls + 2) (s.withHost (expand (.wait polls)) r) =
      .next (t.withHost [] (some (.word (statusWord t)))) := by
  obtain ⟨r', hpolls⟩ := run_polls s polls 2 [.engine, .bus (readTx .status)] r
  rw [expand, waitEvents, hpolls, core_run_succ (step_engine hb hd h _ r'), core_run_succ (step_readTx t .status [] r')]
  rfl

/-- Settles O60: the write of CMD issues the word on the idle block, and the rest of `RUN` is `WAIT`. -/
theorem runStatementCompletesItsCommand : Obligations.RunStatementCompletesItsCommand := by
  intro s c polls t hb hag ht
  have hs : s.withHost (.bus (writeTx .cmd (encode c)) :: expand (.wait polls)) s.reply = s :=
    (congrArg (s.withHost · s.reply) hag).symm
  have hissue : step s = .next ((issue s (encode c)).withHost (expand (.wait polls)) (some .written)) :=
    (congrArg step hs).symm.trans (step_writeTx_cmd hb (encode c) (expand (.wait polls)) s.reply)
  rw [core_run_succ hissue]
  exact run_wait (issue_busy s _) (decode_encode c) ht polls (some .written)

end Sys2Proof.Machine

/-! PROOFS of the family 40_command_protocol.md. The command word: which words are illegal (30_encoding.md R93), and a
command's own word as a row of the opcode table. -/

namespace Sys2Proof

/-- The words 0 and 10 up decode to no command (30_encoding.md R93). -/
theorem exists_decode_eq_error {w : Word} (h : w.toNat = 0 ∨ 10 ≤ w.toNat) : ∃ e, decode w = .error e := by
  cases hd : decode w with
  | error e => exact ⟨e, rfl⟩
  | ok i =>
    have hlegal := (exists_decode_eq_ok_iff w).1 ⟨i, hd⟩
    omega

/-- A row of 32 bits is the word itself. -/
theorem tableWord_toNat (w : Word) : tableWord 32 w.toNat = w := by
  rw [tableWord, Nat.mod_eq_of_lt w.isLt, BitVec.ofNat_toNat, BitVec.setWidth_eq]

end Sys2Proof

/-! PROOFS of the family 40_command_protocol.md. Issue (R121), the engine's turn (R123, R124, R128) and CLRDONE (R130),
each said once, and the statements read off. -/

namespace Sys2Proof.Machine

section

variable {s : State}

/-! ### Whose step is next -/

theorem step_of_agenda_nil (h : s.agenda = []) : step s = engineStep s := by rw [step, nextStep, h]

theorem step_of_agenda_engine {rest : List Event} (h : s.agenda = .engine :: rest) :
    step s = engineStep (s.withAgenda rest) := by rw [step, nextStep, h]; rfl

/-! ### The engine's turn on a busy block -/

theorem engineStep_command (hb : s.busy = true) {i : Instr} (hd : decode s.cmd = .ok i) : engineStep s = exec i s := by
  simp only [engineStep, fetchWord, hb, hd, if_true]

/-- The completion of an illegal word (40_command_protocol.md R128), found only now and not at issue (R121). -/
theorem engineStep_illegal (hb : s.busy = true) (hw : s.cmd.toNat = 0 ∨ 10 ≤ s.cmd.toNat) :
    engineStep s = .next (raiseError s .illegalCommand) := by
  obtain ⟨e, hd⟩ := exists_decode_eq_error hw
  simp only [engineStep, fetchWord, hb, hd, if_true]
  rfl

/-! ### Issue -/

theorem issue_irq (s : State) (w : Word) : (issue s w).irq = false := rfl

/-- A placed word is issued and the next step is the engine's turn, whatever was coming (log entry 7). -/
theorem step_placeWord (s : State) (w : Word) : step (placeWord s w) = engineStep (issue s w) := by
  cases hag : s.agenda with
  | nil =>
    have hplace : placeWord s w = (issue s w).withAgenda [] := by rw [placeWord, hag]
    rw [hplace, step_of_agenda_nil rfl, ← hag]
    rfl
  | cons e rest =>
    have hplace : placeWord s w = (issue s w).withAgenda (.engine :: e :: rest) := by rw [placeWord, hag]
    rw [hplace, step_of_agenda_engine rfl, ← hag]
    rfl

/-! ### CLRDONE -/

theorem writeStatus_of_set {v : Word} (hv : v[1] = true) : writeStatus s v = { s with done := false } := by
  rw [writeStatus, hv, Bool.not_true, Bool.and_false]

theorem writeStatus_of_clear {v : Word} (hv : v[1] = false) : writeStatus s v = s := by
  rw [writeStatus, hv, Bool.not_false, Bool.and_true]

/-- With BUSY and DONE both 0, STATUS holds the code alone, in bits 7:4 (10_state.md R36). -/
theorem statusWord_of_idle_not_done (hb : s.busy = false) (hd : s.done = false) :
    statusWord s = BitVec.ofNat 32 (16 * s.err.num) := by
  rw [statusWord, hb, hd, Bool.toNat_false, Nat.mul_zero, Nat.zero_add]

end

/-! ### The statements -/

/-- Settles O3: in both forms of the agenda the step is the engine's turn. -/
theorem stepRunsTheCommandInFlight : Obligations.StepRunsTheCommandInFlight := by
  intro s i hb hd
  constructor
  · intro hag
    rw [step_of_agenda_nil hag, engineStep_command hb hd]
  · intro rest hag
    exact (step_of_agenda_engine hag).trans (engineStep_command (s := s.withAgenda rest) hb hd)

/-- Settles O4: issue makes the block busy with a word that decodes back to its command. -/
theorem placedWordRunsNext : Obligations.PlacedWordRunsNext := by
  intro s i
  rw [State.withFetchWord, tableWord_toNat, step_placeWord]
  exact engineStep_command (issue_busy s _) (decode_encode i)

/-- Settles O10: a write to CMD of an idle block is the issue of the word, which is not looked at. -/
theorem issueLatchesAnyWord : Obligations.IssueLatchesAnyWord := by
  intro s w hb
  have hissue : busStep s (.write 32 (regOffset .cmd) w.toNat) = (issue s w).withReply .written :=
    busStep_writeReg_idle hb rfl
  exact ⟨hissue, (congrArg State.irq hissue).trans (issue_irq s w)⟩

/-- Settles O18: a write to STATUS of an idle block is `writeStatus`. -/
theorem clearDoneClearsOnlyDone : Obligations.ClearDoneClearsOnlyDone := by
  intro s v hb
  have hwrite : busStep s (.write 32 (regOffset .status) v.toNat) = (writeStatus s v).withReply .written :=
    busStep_writeReg_idle hb rfl
  constructor
  · intro hv
    rw [writeStatus_of_set hv] at hwrite
    refine ⟨hwrite, congrArg State.irq hwrite, fun c n hcn hc => ?_⟩
    have hstatus : readReg (busStep s (.write 32 (regOffset .status) v.toNat)) .status =
        BitVec.ofNat 32 (16 * c.num) := by
      rw [hwrite, ← hc]
      exact statusWord_of_idle_not_done hb rfl
    refine hstatus.trans ?_
    simp only [List.mem_cons, Prod.mk.injEq, List.not_mem_nil, or_false] at hcn
    rcases hcn with ⟨rfl, rfl⟩ | ⟨rfl, rfl⟩ | ⟨rfl, rfl⟩ | ⟨rfl, rfl⟩ | ⟨rfl, rfl⟩ | ⟨rfl, rfl⟩ <;> rfl
  · intro hv
    rw [writeStatus_of_clear hv] at hwrite
    exact hwrite

/-- Settles O52: in both forms of the agenda the step is the engine's turn, which raises IllegalCommand. -/
theorem illegalWordCompletesAsIllegal : Obligations.IllegalWordCompletesAsIllegal := by
  intro s hb hw
  constructor
  · intro hag
    exact ⟨_, (step_of_agenda_nil hag).trans (engineStep_illegal hb hw), rfl, rfl⟩
  · intro rest hag
    exact ⟨_, (step_of_agenda_engine hag).trans (engineStep_illegal (s := s.withAgenda rest) hb hw), rfl, rfl⟩

end Sys2Proof.Machine

/-! PROOFS of the family 41_keyagreement.md. Square-and-multiply (R141): the value its loop holds invariant, and the
remainder of the power it ends with (R140). -/

namespace Sys2Proof.Machine

theorem modpowLoop_zero_exponent (m fuel r acc : Nat) : modpowLoop m fuel r acc 0 = r := by
  cases fuel <;> rfl

/-- One time round the loop takes the lowest bit off the exponent (41_keyagreement.md R141). -/
theorem modpowLoop_succ {e : Nat} (he : e ≠ 0) (m fuel r acc : Nat) :
    modpowLoop m (fuel + 1) r acc e =
      modpowLoop m fuel (if e % 2 = 1 then r * acc % m else r) (acc * acc % m) (e / 2) := by
  rw [modpowLoop, if_neg he]

/-- One time round the loop keeps `r * acc ^ e` modulo `m`. -/
theorem modpowRound_invariant (m r acc e : Nat) :
    (if e % 2 = 1 then r * acc % m else r) * (acc * acc % m) ^ (e / 2) % m = r * acc ^ e % m := by
  have hsquares : (acc * acc % m) ^ (e / 2) ≡ acc ^ (2 * (e / 2)) [MOD m] := by
    rw [pow_mul, sq]
    exact (Nat.mod_modEq _ m).pow _
  split
  case isTrue hodd =>
    have hpow : acc ^ e = acc * acc ^ (2 * (e / 2)) := by
      rw [← pow_succ']
      congr 1
      omega
    rw [hpow, ← mul_assoc]
    exact (Nat.mod_modEq _ m).mul hsquares
  case isFalse heven =>
    have hpow : acc ^ e = acc ^ (2 * (e / 2)) := by
      congr 1
      omega
    rw [hpow]
    exact hsquares.mul_left r

theorem modpowLoop_eq {m fuel e : Nat} (hfuel : e ≤ fuel) (r acc : Nat) (hr : r < m) :
    modpowLoop m fuel r acc e = r * acc ^ e % m := by
  induction fuel generalizing r acc e with
  | zero =>
    obtain rfl : e = 0 := Nat.le_zero.1 hfuel
    rw [modpowLoop_zero_exponent, pow_zero, mul_one, Nat.mod_eq_of_lt hr]
  | succ fuel ih =>
    rcases eq_or_ne e 0 with rfl | he
    · rw [modpowLoop_zero_exponent, pow_zero, mul_one, Nat.mod_eq_of_lt hr]
    · have hround : (if e % 2 = 1 then r * acc % m else r) < m := by
        split
        · exact Nat.mod_lt _ (Nat.zero_lt_of_lt hr)
        · exact hr
      rw [modpowLoop_succ he, ih (by omega) _ _ hround, modpowRound_invariant]

/-- Settles O27: the loop started at `1 % m` and `b % m`, with the exponent itself as fuel. -/
theorem squareAndMultiplyIsModpow : Obligations.SquareAndMultiplyIsModpow := by
  intro b e m hm
  rw [modpowFast, Nat.mod_eq_of_lt hm, modpowLoop_eq le_rfl _ _ hm, one_mul, ← Nat.pow_mod]

end Sys2Proof.Machine

/-! PROOFS of the family 41_keyagreement.md. DPUB and DSEC in and out of range (R143 to R147), and the secrets of
consistent pairs (R148), which follow from 9 having order 11 modulo 23. -/

namespace Sys2Proof.Machine

/-! ### Keys as words -/

theorem derivePublic_eq (p : Word) : derivePublic p = 9 ^ p.toNat % 23 := rfl

theorem deriveSecret_eq (p q : Word) : deriveSecret p q = q.toNat ^ p.toNat % 23 := rfl

/-- Both kinds of derived key are below 23, so a 32-bit register holds them as they are. -/
theorem toNat_ofNat_derivePublic (p : Word) : (BitVec.ofNat 32 (derivePublic p)).toNat = 9 ^ p.toNat % 23 := by
  rw [BitVec.toNat_ofNat, Nat.mod_eq_of_lt (by have := derivePublic_le p; omega), derivePublic_eq]

theorem toNat_ofNat_deriveSecret (p q : Word) :
    (BitVec.ofNat 32 (deriveSecret p q)).toNat = q.toNat ^ p.toNat % 23 := by
  rw [BitVec.toNat_ofNat, Nat.mod_eq_of_lt (by have := deriveSecret_le p q; omega), deriveSecret_eq]

theorem privOk_eq_false_iff (v : Word) : privOk v = false ↔ v.toNat = 0 ∨ 23 ≤ v.toNat := by
  rw [← Bool.not_eq_true, privOk_iff]
  omega

theorem pubOk_eq_false_iff (v : Word) : pubOk v = false ↔ 23 ≤ v.toNat := by
  rw [← Bool.not_eq_true, pubOk_iff]
  omega

/-! ### The two commands -/

section

variable {s : State}

/-- DPUB in range (41_keyagreement.md R143). -/
theorem exec_dpub_ok (hp : privOk s.priv = true) :
    exec .dpub s = .next (completeOk (s.withPub (BitVec.ofNat 32 (derivePublic s.priv)))) :=
  exec_ok (i := .dpub) (dpubOutcome_ok hp)

/-- DSEC in range (41_keyagreement.md R145). -/
theorem exec_dsec_ok (hp : privOk s.priv = true) (hq : pubOk s.pub = true) :
    exec .dsec s = .next (completeOk (s.withSecret (BitVec.ofNat 32 (deriveSecret s.priv s.pub)))) :=
  exec_ok (i := .dsec) (dsecOutcome_ok hp hq)

theorem dpubOutcome_error (hp : privOk s.priv = false) : dpubOutcome s = .error .invalidKeyRange := by
  simp [dpubOutcome, hp]

theorem dsecOutcome_error (h : privOk s.priv = false ∨ pubOk s.pub = false) :
    dsecOutcome s = .error .invalidKeyRange := by
  rcases h with h | h <;> simp [dsecOutcome, h]

theorem exec_dpub_error (hp : privOk s.priv = false) : exec .dpub s = .next (raiseError s .invalidKeyRange) :=
  exec_error (i := .dpub) (dpubOutcome_error hp)

theorem exec_dsec_error (h : privOk s.priv = false ∨ pubOk s.pub = false) :
    exec .dsec s = .next (raiseError s .invalidKeyRange) :=
  exec_error (i := .dsec) (dsecOutcome_error h)

end

/-! ### Ranges and values -/

/-- Settles O22. -/
theorem dpubDerivesThePublicKey : Obligations.DpubDerivesThePublicKey := fun s h1 h22 =>
  exec_dpub_ok ((privOk_iff s.priv).2 ⟨h1, h22⟩)

/-- Settles O24: the secret of a public key 0 is a power of 0 with a positive exponent. -/
theorem dsecDerivesTheSecret : Obligations.DsecDerivesTheSecret := by
  intro s h1 h22 hpub
  have hexec := exec_dsec_ok ((privOk_iff s.priv).2 ⟨h1, h22⟩) ((pubOk_iff s.pub).2 hpub)
  refine ⟨hexec, fun hzero => ⟨_, hexec, BitVec.eq_of_toNat_eq ?_⟩⟩
  rw [completeOk_secret, State.withSecret_secret, toNat_ofNat_deriveSecret, hzero, BitVec.ofNat_eq_ofNat,
    BitVec.toNat_zero, zero_pow (by omega), Nat.zero_mod]

/-- Settles O26. -/
theorem keysOutOfRangeAreRefused : Obligations.KeysOutOfRangeAreRefused := by
  intro s
  refine ⟨fun hpriv => exec_dpub_error ((privOk_eq_false_iff _).2 hpriv), fun hkeys => exec_dsec_error ?_⟩
  rwa [privOk_eq_false_iff, pubOk_eq_false_iff, or_assoc]

/-- The function table of DPUB (41_keyagreement.md R146). -/
def publicKeyTable : List (Word × Word) :=
  [(1, 9), (2, 12), (3, 16), (4, 6), (5, 8), (6, 3), (7, 4), (8, 13), (9, 2), (10, 18), (11, 1), (12, 9), (13, 12),
    (14, 16), (15, 6), (16, 8), (17, 3), (18, 4), (19, 13), (20, 2), (21, 18), (22, 1)]

theorem publicKeyTable_derivePublic :
    ∀ row ∈ publicKeyTable, privOk row.1 = true ∧ BitVec.ofNat 32 (derivePublic row.1) = row.2 := by
  simp [publicKeyTable, privOk_iff, derivePublic_eq]

/-- Settles O23: each row is a private key in range with its public key. -/
theorem dpubFunctionTable : Obligations.DpubFunctionTable := by
  rintro s p q hrow rfl
  obtain ⟨hp, hq⟩ := publicKeyTable_derivePublic (s.priv, q) hrow
  exact ⟨_, exec_dpub_ok hp, rfl, hq⟩

/-! ### Powers of 9 modulo 23 -/

/-- 9 has order 11 modulo 23: its powers depend on the exponent modulo 11 alone. -/
theorem nine_pow_modEq {m n : Nat} (h : m ≡ n [MOD 11]) : 9 ^ m ≡ 9 ^ n [MOD 23] := by
  have reduce (k : Nat) : 9 ^ k ≡ 9 ^ (k % 11) [MOD 23] :=
    calc 9 ^ k = (9 ^ 11) ^ (k / 11) * 9 ^ (k % 11) := by rw [← pow_mul, ← pow_add, Nat.div_add_mod]
      _ ≡ 1 ^ (k / 11) * 9 ^ (k % 11) [MOD 23] := ((show 9 ^ 11 ≡ 1 [MOD 23] by decide).pow _).mul_right _
      _ = 9 ^ (k % 11) := by rw [one_pow, one_mul]
  calc 9 ^ m ≡ 9 ^ (m % 11) [MOD 23] := reduce m
    _ = 9 ^ (n % 11) := by rw [h]
    _ ≡ 9 ^ n [MOD 23] := (reduce n).symm

/-- The squares modulo 11 are 0, 1, 3, 4, 5 and 9, and 9 to these is one of six values. -/
theorem nine_pow_sq_mem (p : Nat) : 9 ^ p ^ 2 % 23 ∈ [1, 2, 6, 8, 9, 16] := by
  have hsquares : ∀ r < 11, 9 ^ r ^ 2 % 23 ∈ [1, 2, 6, 8, 9, 16] := by decide
  have hp : 9 ^ p ^ 2 % 23 = 9 ^ (p % 11) ^ 2 % 23 := nine_pow_modEq ((Nat.mod_modEq p 11).symm.pow 2)
  rw [hp]
  exact hsquares _ (Nat.mod_lt p (by decide))

/-! ### Consistent pairs -/

/-- DPUB and then DSEC: the pair's two exponents multiply (41_keyagreement.md R148). -/
theorem exec_dpub_then_dsec {s : State} (hp : privOk s.priv = true) :
    ∃ t u, exec .dpub s = .next t ∧ exec .dsec t = .next u ∧ u.err = .ok ∧ u.pub = t.pub ∧
      u.pub.toNat = 9 ^ s.priv.toNat % 23 ∧ u.secret.toNat = 9 ^ s.priv.toNat ^ 2 % 23 := by
  have hpub := toNat_ofNat_derivePublic s.priv
  refine ⟨_, _, exec_dpub_ok hp, exec_dsec_ok hp ((pubOk_iff _).2 ?inRange), rfl, rfl, hpub, ?secret⟩
  case inRange =>
    rw [completeOk_pub, State.withPub_pub, hpub]
    omega
  case secret =>
    rw [completeOk_secret, State.withSecret_secret, toNat_ofNat_deriveSecret, completeOk_pub, State.withPub_pub, hpub,
      completeOk_priv, State.withPub_priv, ← Nat.pow_mod, ← pow_mul, ← sq]

/-- Settles O25: PRIV + 11 and PRIV are one exponent modulo the order of 9, and so are their squares. -/
theorem consistentPairsShareSixSecrets : Obligations.ConsistentPairsShareSixSecrets := by
  intro s h1 h22
  obtain ⟨t, u, ht, hu, herr, hpair, hpub, hsecret⟩ := exec_dpub_then_dsec ((privOk_iff s.priv).2 ⟨h1, h22⟩)
  refine ⟨⟨t, u, ht, hu, herr, hpair, hsecret, hsecret ▸ nine_pow_sq_mem _⟩, fun s' hpriv h22' => ?_⟩
  obtain ⟨t', u', ht', hu', -, -, hpub', hsecret'⟩ :=
    exec_dpub_then_dsec ((privOk_iff s'.priv).2 ⟨by omega, h22'⟩)
  have hmod : s'.priv.toNat ≡ s.priv.toNat [MOD 11] := by rw [hpriv]; exact Nat.add_mod_right _ 11
  refine ⟨t, u, t', u', ht, hu, ht', hu', BitVec.eq_of_toNat_eq ?_, BitVec.eq_of_toNat_eq ?_⟩
  · rw [hpub, hpub']; exact nine_pow_modEq hmod
  · rw [hsecret, hsecret']; exact nine_pow_modEq (hmod.pow 2)

end Sys2Proof.Machine

/-! PROOFS of the family 42_keyedcipher.md. The transform undone by itself (R164) and told apart by its secret (R165),
and XFORM on MSG (R163). -/

namespace Sys2Proof.Machine

/-! ### The transform -/

/-- The same keystream bytes met twice cancel, from any position on. -/
theorem transformFrom_transformFrom (ks : Nat → Nat → Byte) (s i : Nat) (l : List Byte) :
    transformFrom ks s i (transformFrom ks s i l) = l := by
  induction l generalizing i with
  | nil => rfl
  | cons b t ih => rw [transformFrom, transformFrom, ih, BitVec.xor_assoc, BitVec.xor_self, BitVec.xor_zero]

/-- At one position two secrets in range have different keystream bytes: they are less than 256 apart. -/
theorem keystream_injective {s s' i : Nat} (hs : s ≤ 22) (hs' : s' ≤ 22) (h : keystream s i = keystream s' i) :
    s = s' := by
  have hmod : (s + i) % 256 = (s' + i) % 256 := by simpa [keystream] using congrArg BitVec.toNat h
  omega

/-- Settles O29. -/
theorem transformIsInvolutive : Obligations.TransformIsInvolutive := fun ks s b =>
  ⟨transformFrom_transformFrom ks s 0 b, transformFrom_length ks s 0 b⟩

/-- Settles O30: the message byte cancels, which leaves the two keystream bytes of that position. -/
theorem differentSecretsDifferInEveryByte : Obligations.DifferentSecretsDifferInEveryByte := by
  intro s s' b hs hs' hne i h h' heq
  rw [transform_getElem, transform_getElem, BitVec.xor_right_inj] at heq
  exact hne (keystream_injective hs hs' heq)

/-! ### XFORM -/

section

variable {s : State}

/-- XFORM of a message that fits MSG under a secret in range (42_keyedcipher.md R163). -/
theorem exec_xform_ok (h : s.msglenOk = true) (h' : secretOk s.secret = true) :
    exec .xform s = .next (completeOk (s.withMsg (writeBytes s.msg 0 (transform s.secret.toNat s.message)))) :=
  exec_ok (i := .xform) (xformOutcome_ok h h')

/-- A byte of the message, transformed in place, is the byte that stood there and its keystream byte. -/
theorem readByte_writeBytes_transform_message_of_lt {i : Nat} (secret : Nat) (hi : i < s.msglen.toNat) :
    readByte .msg (writeBytes s.msg 0 (transform secret s.message)) i =
      readByte .msg s.msg i ^^^ keystream secret i := by
  rw [readByte_writeBytes_zero_of_lt _ _ (by simpa using hi), transform_getElem, message_getElem]

/-- A byte past the message is not touched. -/
theorem readByte_writeBytes_transform_message_of_ge {a : Nat} (secret : Nat) (ha : s.msglen.toNat ≤ a) :
    readByte .msg (writeBytes s.msg 0 (transform secret s.message)) a = readByte .msg s.msg a :=
  readByte_writeBytes_zero_of_ge _ _ (by simpa using ha)

end

/-- Settles O28: MSG is left with the transformed message written over the message. -/
theorem xformCiphersTheMessage : Obligations.XformCiphersTheMessage := by
  intro s hlen hsecret
  have hexec := exec_xform_ok ((msglenOk_iff s).2 hlen) ((secretOk_iff s.secret).2 hsecret)
  refine ⟨_, hexec, fun i hi => ?_, fun a ha => ?_⟩
  · rw [← keystream_eq]
    exact readByte_writeBytes_transform_message_of_lt _ hi
  · exact readByte_writeBytes_transform_message_of_ge _ ha

end Sys2Proof.Machine

/-! PROOFS of the family 43_bitpacker.md. Unframing undoes framing and notices every missing bit (R173), and the two
commands on BITS and MSG (R172, R175, R176). -/

namespace Sys2Proof.Machine

/-! ### Frames as bitstreams -/

/-- The length field of a frame is the number it declares (30_encoding.md R106). -/
theorem bitsToNat_take_frameBits_append {m : List Byte} (k : Kind) (tail : List Bool) (hm : m.length < 2 ^ 32) :
    bitsToNat ((frameBits m k ++ tail).take 32) = m.length := by
  rw [frameBits, List.append_assoc, List.take_left' (natBits_length 32 _), bitsToNat_natBits hm]

/-- What follows the 33 header bits of a frame. -/
theorem drop_frameBits_append (m : List Byte) (k : Kind) (tail : List Bool) :
    (frameBits m k ++ tail).drop 33 = m.flatMap byteBits ++ tail := by
  have hsplit : frameBits m k ++ tail = (natBits 32 m.length ++ [k.bit]) ++ (m.flatMap byteBits ++ tail) := by
    simp [frameBits]
  rw [hsplit, List.drop_left' (by simp)]

/-- Unframing a whole frame, whatever follows it (43_bitpacker.md R173). -/
theorem unframeBits_frameBits_append {m : List Byte} (k : Kind) (tail : List Bool) (hm : m.length < 2 ^ 32) :
    unframeBits (frameBits m k ++ tail) = some (m, k) := by
  have hlen : (frameBits m k ++ tail).length = 33 + 8 * m.length + tail.length := by
    rw [List.length_append, frameBits_length, frameLen_eq]
  have hkind : (frameBits m k ++ tail).getD 32 false = k.bit := by
    rw [List.getD_append _ _ _ _ (by rw [frameBits_length, frameLen_eq]; omega), frameBits_getD_kind]
  rw [unframeBits_eq_some, bitsToNat_take_frameBits_append k tail hm, drop_frameBits_append, hkind, hlen]
  exact ⟨by omega, by omega, (streamBytes_flatMap_append m tail).symm, (Kind.ofBit_bit k).symm⟩

/-- Unframing a frame of which a bit is missing: the header does not fit, or the length it declares does not
(43_bitpacker.md R173). -/
theorem unframeBits_take_frameBits {m : List Byte} (k : Kind) (tail : List Bool) {n : Nat} (hm : m.length < 2 ^ 32)
    (hn : n < 33 + 8 * m.length) : unframeBits ((frameBits m k ++ tail).take n) = none := by
  have hlen : ((frameBits m k ++ tail).take n).length = n := by
    rw [List.length_take, List.length_append, frameBits_length, frameLen_eq]; omega
  rw [unframeBits_eq_none, hlen]
  rcases Nat.lt_or_ge n 33 with hshort | hheader
  · exact .inl hshort
  · rw [List.take_take, Nat.min_eq_left (by omega), bitsToNat_take_frameBits_append k tail hm]
    exact .inr (by omega)

/-- Settles O34: the bits taken are the whole frame and part of the tail, or a part of the frame. -/
theorem unframeInvertsFrame : Obligations.UnframeInvertsFrame := by
  intro m k tail n hm _
  refine ⟨fun hn => ?_, unframeBits_take_frameBits k tail hm⟩
  rw [List.take_append, List.take_of_length_le (by rwa [frameBits_length])]
  exact unframeBits_frameBits_append k _ hm

/-! ### FRAME -/

/-- FRAME of a message that fits MSG (43_bitpacker.md R172). -/
theorem exec_frame_ok {s : State} (h : s.msglenOk = true) :
    exec .frame s = .next (completeOk (s.withStream (frameBits s.message s.kind))) :=
  exec_ok (i := .frame) (frameOutcome_ok h)

theorem frameBits_message_length (s : State) (k : Kind) :
    (frameBits s.message k).length = 33 + 8 * s.msglen.toNat := by
  rw [frameBits_length, message_length, frameLen_eq]

/-- A frame of `L` bytes takes bytes 0 to `4 + L` of BITS, and past its end the last of them holds 0 (43_bitpacker.md
R172, 20_memory.md R70). -/
theorem bitRead_writeStream_frameBits (buf : Buffer) (m : List Byte) (k : Kind) {i : Nat}
    (hi : i < 8 * (5 + m.length)) : bitRead (writeStream buf (frameBits m k)) i = (frameBits m k).getD i false :=
  bitRead_writeStream _ _ _ (by rw [frameBits_length, frameLen_eq]; omega)

theorem Kind.bit_eq_decide (k : Kind) : k.bit = decide (k = .binary) := by cases k <;> rfl

/-- Settles O31: BITS is left with the frame's bits, each field of the frame read at its own positions. -/
theorem frameWritesTheFrame : Obligations.FrameWritesTheFrame := by
  intro s hlen
  have hexec := exec_frame_ok ((msglenOk_iff s).2 hlen)
  rw [completeOk_withStream, frameBits_message_length] at hexec
  have hbit {i : Nat} (hi : i < 8 * (5 + s.msglen.toNat)) :=
    bitRead_writeStream_frameBits s.bits s.message s.kind (i := i) (by rwa [message_length])
  refine ⟨_, hexec, fun i hi => ?length, ?kind, fun j hj t ht => ?payload, fun i hge hi => ?padding,
    fun a ha => ?later⟩
  case length => rw [hbit (by omega), frameBits_getD_length _ _ hi, message_length, BitVec.testBit_toNat]
  case kind => rw [hbit (by omega), frameBits_getD_kind, Kind.bit_eq_decide]
  case payload => rw [hbit (by omega), frameBits_getD_payload _ _ (by rwa [message_length]) ht, message_getElem]
  case padding => rw [hbit hi, List.getD_eq_default _ _ (by rwa [frameBits_message_length])]
  case later => exact readByte_writeStream_of_ge _ _ _ (by rw [frameBits_message_length]; omega)

/-! ### UNFRAME -/

/-- The length the stream in BITS declares (30_encoding.md R106); under a name of its own the sum is never evaluated. -/
def State.declaredLen (s : State) : Nat := ∑ i ∈ Finset.range 32, (bitRead s.bits i).toNat * 2 ^ (31 - i)

section

variable {s : State}

theorem stream_getD {i : Nat} (hi : i < s.bitlen.toNat) : s.stream.getD i false = bitRead s.bits i := by
  rw [List.getD_eq_getElem _ _ (by rwa [stream_length])]
  exact readStream_getElem _ _ _ _

theorem bitsToNat_take_stream (h : 32 ≤ s.bitlen.toNat) : bitsToNat (s.stream.take 32) = s.declaredLen := by
  have htake : s.stream.take 32 = (List.range 32).map (bitRead s.bits) := by
    rw [State.stream, readStream, ← List.map_take, List.take_range, Nat.min_eq_left h]
  rw [htake, bitsToNat_map_range]
  rfl

/-- A stream in BITS that holds a whole frame (43_bitpacker.md R171). -/
theorem unframeBits_stream_of_fits (h : 33 + 8 * s.declaredLen ≤ s.bitlen.toNat) :
    unframeBits s.stream =
      some (streamBytes s.declaredLen (s.stream.drop 33), Kind.ofBit (bitRead s.bits 32)) := by
  rw [unframeBits_eq_some, bitsToNat_take_stream (by omega), stream_length, stream_getD (by omega)]
  exact ⟨by omega, by omega, rfl, rfl⟩

/-- A stream in BITS with no room for a header, or for the length it declares (43_bitpacker.md R171, R176). -/
theorem unframeBits_stream_of_not_fits
    (h : s.bitlen.toNat < 33 ∨ (33 ≤ s.bitlen.toNat ∧ s.bitlen.toNat - 33 < 8 * s.declaredLen)) :
    unframeBits s.stream = none := by
  rw [unframeBits_eq_none, stream_length]
  refine h.imp_right fun ⟨hheader, hlong⟩ => ?_
  rwa [bitsToNat_take_stream (by omega)]

/-- Byte `j` of the payload is the stream's bits from `33 + 8j` on (43_bitpacker.md R171). -/
theorem streamBytes_drop_stream_getLsbD {n j t : Nat} (hj : j < (streamBytes n (s.stream.drop 33)).length)
    (ht : t < 8) (hfits : 33 + 8 * n ≤ s.bitlen.toNat) :
    ((streamBytes n (s.stream.drop 33))[j]).getLsbD (7 - t) = bitRead s.bits (33 + 8 * j + t) := by
  have hjn : j < n := by rwa [streamBytes_length] at hj
  calc ((streamBytes n (s.stream.drop 33))[j]).getLsbD (7 - t)
    _ = (s.stream.drop 33).getD (8 * j + t) false := streamBytes_getElem_getLsbD _ _ _ _ hj ht
    _ = s.stream.getD (33 + 8 * j + t) false := by
      rw [List.getD_eq_getElem?_getD, List.getElem?_drop, ← Nat.add_assoc, List.getD_eq_getElem?_getD]
    _ = bitRead s.bits (33 + 8 * j + t) := stream_getD (by omega)

/-- UNFRAME of a stream that fits BITS and is a frame (43_bitpacker.md R175). -/
theorem exec_unframe_ok {m : List Byte} {k : Kind} (h : s.bitlenOk = true)
    (hframe : unframeBits s.stream = some (m, k)) : exec .unframe s = .next (completeOk (s.withMessage m k)) :=
  exec_ok (i := .unframe) (unframeOutcome_ok h hframe)

theorem exec_unframe_badOperand (h : s.bitlenOk = false) : exec .unframe s = .next (raiseError s .badOperand) :=
  exec_error (i := .unframe) (by simp [outcome, unframeOutcome, h])

theorem exec_unframe_malformedFrame (h : s.bitlenOk = true) (hframe : unframeBits s.stream = none) :
    exec .unframe s = .next (raiseError s .malformedFrame) :=
  exec_error (i := .unframe) (by simp [outcome, unframeOutcome, h, hframe])

theorem bitlenOk_eq_false_iff (s : State) : s.bitlenOk = false ↔ 262177 < s.bitlen.toNat := by
  rw [← Bool.not_eq_true, bitlenOk_iff]
  omega

end

theorem Kind.ofBit_eq_ite (b : Bool) : Kind.ofBit b = if b then .binary else .text := by cases b <;> rfl

/-- Settles O32: MSG is left with the bytes of the stream from bit 33 on. -/
theorem unframeRecoversTheMessage : Obligations.UnframeRecoversTheMessage := by
  intro s L hL hlen hfits
  rw [show L = s.declaredLen from hL] at hfits ⊢
  have hexec := exec_unframe_ok ((bitlenOk_iff s).2 hlen) (unframeBits_stream_of_fits hfits)
  rw [completeOk_withMessage, streamBytes_length, Kind.ofBit_eq_ite] at hexec
  refine ⟨_, hexec, fun j hj t ht => ?_, fun a ha => ?_⟩
  · have hj' : j < (streamBytes s.declaredLen (s.stream.drop 33)).length := by rwa [streamBytes_length]
    rw [readByte_writeBytes_zero_of_lt _ _ hj', streamBytes_drop_stream_getLsbD hj' ht hfits]
  · exact readByte_writeBytes_zero_of_ge _ _ (by rwa [streamBytes_length])

/-- Settles O33: the check on BITLEN comes first, and then the stream is no frame. -/
theorem unframeRefusesWhatIsNoFrame : Obligations.UnframeRefusesWhatIsNoFrame := by
  intro s L hL
  rw [show L = s.declaredLen from hL]
  refine ⟨fun hlong => exec_unframe_badOperand ((bitlenOk_eq_false_iff s).2 hlong), fun hshort => ?_⟩
  exact exec_unframe_malformedFrame ((bitlenOk_iff s).2 (by omega))
    (unframeBits_stream_of_not_fits (hshort.imp_right fun ⟨hheader, _, hpayload⟩ => ⟨hheader, hpayload⟩))

end Sys2Proof.Machine

/-! PROOFS of the family 44_stegocodec.md. Positions in row-major order (R185 to R187), and the laws of embedding and
extracting (R193), each read off what embedding does to a byte that carries a bit and to one that carries none. -/

namespace Sys2Proof.Machine

/-! ### Positions -/

/-- A position is channel `k mod 3` of its pixel, the pixel in row `k / 3 / w` and column `k / 3 mod w`
(44_stegocodec.md R185, R186). -/
theorem pos_eq_rowMajor (cpp w k : Nat) : pos cpp k = (k / 3 / w * w + k / 3 % w) * cpp + k % 3 := by
  rw [Nat.div_add_mod', pos]

theorem pos_lt_of_lt_mul {cpp k w h : Nat} (hc : 3 ≤ cpp) (hk : k < 3 * w * h) : pos cpp k < cpp * w * h := by
  rw [Nat.mul_assoc] at hk ⊢
  exact pos_lt_of_lt hc hk

/-- Settles O37: the positions below the capacity are those of the image's pixels. -/
theorem positionsWalkThePixels : Obligations.PositionsWalkThePixels :=
  ⟨fun cpp w k _ => pos_eq_rowMajor cpp w k, fun _ _ _ => pos_lt_pos, pos_mod_four,
    fun s hg _ hk => ⟨pos_lt_of_lt_mul (cpp_ge s) hk, (geomOk_iff s).1 hg⟩⟩

/-! ### What embedding does to a byte -/

section

variable {cpp : Nat} (hc : 3 ≤ cpp) (pix : Buffer) (l : List Bool)

include hc

/-- A byte carries a bit of the stream, which becomes its least significant bit, or it carries none and is kept
(44_stegocodec.md R195). -/
theorem readByte_embedBits_cases (a : Nat) :
    (∃ k, ∃ h : k < l.length, a = pos cpp k ∧
      readByte .pix (embedBits cpp pix l) a = setLsb (readByte .pix pix a) l[k]) ∨
    ((∀ k < l.length, a ≠ pos cpp k) ∧ readByte .pix (embedBits cpp pix l) a = readByte .pix pix a) := by
  by_cases h : ∃ k < l.length, a = pos cpp k
  · obtain ⟨k, hk, rfl⟩ := h
    exact .inl ⟨k, hk, rfl, readByte_embedBits_pos hc pix l k hk⟩
  · have hne : ∀ k < l.length, a ≠ pos cpp k := fun k hk ha => h ⟨k, hk, ha⟩
    exact .inr ⟨hne, readByte_embedBits_of_ne pix l a hne⟩

/-- R193 (a): extraction gives the bits embedded, then those of the carrier. -/
theorem extractBits_embedBits_getElem? {n k : Nat} (hk : k < n) :
    (extractBits cpp (embedBits cpp pix l) n)[k]? = some (if h : k < l.length then l[k] else lsbAt cpp pix k) := by
  rw [List.getElem?_eq_getElem (by rwa [extractBits_length]), extractBits_getElem, lsbAt_embedBits hc]

/-- R193 (b): bits 7:1 of every byte are kept. -/
theorem readByte_embedBits_getLsbD_succ (a i : Nat) :
    (readByte .pix (embedBits cpp pix l) a).getLsbD (i + 1) = (readByte .pix pix a).getLsbD (i + 1) := by
  rcases readByte_embedBits_cases hc pix l a with ⟨k, hk, -, hset⟩ | ⟨-, hkept⟩
  · rw [hset, setLsb_getLsbD, if_neg (Nat.succ_ne_zero i)]
  · rw [hkept]

/-- R193 (c), unused positions. -/
theorem readByte_embedBits_pos_of_ge {k : Nat} (hk : l.length ≤ k) :
    readByte .pix (embedBits cpp pix l) (pos cpp k) = readByte .pix pix (pos cpp k) :=
  readByte_embedBits_of_ne pix l _ fun _ hj => (pos_lt_pos hc (hj.trans_le hk)).ne'

/-- R193 (c), bytes beyond an image of `w` by `h` pixels that can hold the stream. -/
theorem readByte_embedBits_of_ge_image {w h a : Nat} (hl : l.length ≤ 3 * w * h) (ha : cpp * w * h ≤ a) :
    readByte .pix (embedBits cpp pix l) a = readByte .pix pix a :=
  readByte_embedBits_of_ne pix l a fun _ hk => ((pos_lt_of_lt_mul hc (hk.trans_le hl)).trans_le ha).ne'

/-- R193 (d): embedding the same stream again changes no byte. -/
theorem readByte_embedBits_embedBits (a : Nat) :
    readByte .pix (embedBits cpp (embedBits cpp pix l) l) a = readByte .pix (embedBits cpp pix l) a := by
  rcases readByte_embedBits_cases hc pix l a with ⟨k, hk, rfl, hset⟩ | ⟨hne, -⟩
  · rw [readByte_embedBits_pos hc _ _ _ hk, hset, setLsb_setLsb]
  · exact readByte_embedBits_of_ne _ _ _ hne

/-- R193 (e): a byte changes by at most 1. -/
theorem readByte_embedBits_near (a : Nat) :
    (readByte .pix (embedBits cpp pix l) a).toNat ≤ (readByte .pix pix a).toNat + 1 ∧
      (readByte .pix pix a).toNat ≤ (readByte .pix (embedBits cpp pix l) a).toNat + 1 := by
  rcases readByte_embedBits_cases hc pix l a with ⟨k, hk, -, hset⟩ | ⟨-, hkept⟩
  · rw [hset]
    exact setLsb_near _ _
  · rw [hkept]
    exact ⟨Nat.le_succ _, Nat.le_succ _⟩

end

/-- R193 (c), alpha bytes: with 4 bytes per pixel no position is one. -/
theorem readByte_embedBits_alpha (pix : Buffer) (l : List Bool) {a : Nat} (ha : a % 4 = 3) :
    readByte .pix (embedBits 4 pix l) a = readByte .pix pix a :=
  readByte_embedBits_of_ne pix l a fun k _ h => pos_mod_four k (h ▸ ha)

/-- R193 (e): the bytes that change are among those at the stream's positions. -/
theorem card_changed_embedBits_le (cpp : Nat) (pix : Buffer) (l : List Bool) (N : Nat) :
    ((Finset.range N).filter fun a => readByte .pix (embedBits cpp pix l) a ≠ readByte .pix pix a).card ≤
      l.length := by
  have hsub : ((Finset.range N).filter fun a => readByte .pix (embedBits cpp pix l) a ≠ readByte .pix pix a) ⊆
      (Finset.range l.length).image (pos cpp) := by
    intro a ha
    by_contra hnot
    refine (Finset.mem_filter.1 ha).2 (readByte_embedBits_of_ne pix l a fun k hk hpos => hnot ?_)
    exact Finset.mem_image.2 ⟨k, Finset.mem_range.2 hk, hpos.symm⟩
  calc _ ≤ ((Finset.range l.length).image (pos cpp)).card := Finset.card_le_card hsub
    _ ≤ (Finset.range l.length).card := Finset.card_image_le
    _ = l.length := Finset.card_range _

/-- Settles O42: the laws of R193 in their order. -/
theorem embedAndExtractLaws : Obligations.EmbedAndExtractLaws := by
  intro cpp pix l hc
  refine ⟨fun n k => ?extract, ?bits, fun k => ?unused, ?alpha, fun w h a => ?beyond, ?twice, ?near, ?count⟩
  case extract => exact extractBits_embedBits_getElem? hc pix l
  case bits => exact readByte_embedBits_getLsbD_succ hc pix l
  case unused => exact readByte_embedBits_pos_of_ge hc pix l
  case alpha => rintro rfl a ha; exact readByte_embedBits_alpha pix l ha
  case beyond => exact readByte_embedBits_of_ge_image hc pix l
  case twice => exact readByte_embedBits_embedBits hc pix l
  case near => exact readByte_embedBits_near hc pix l
  case count => exact card_changed_embedBits_le cpp pix l

end Sys2Proof.Machine

/-! PROOFS of the family 44_stegocodec.md. EMBED with its refusals, and EXTRACT (R191, R192, R197, R198). -/

namespace Sys2Proof.Machine

section

variable {s : State}

/-! ### The two commands -/

/-- EMBED of a stream that fits BITS into a valid image that can hold it (44_stegocodec.md R191). -/
theorem exec_embed_ok (h : s.bitlenOk = true) (hg : s.geomOk = true) (hcap : s.bitlen.toNat ≤ s.cap) :
    exec .embed s = .next (completeOk (s.withPix (embedBits s.cpp s.pix s.stream))) :=
  exec_ok (i := .embed) (embedOutcome_ok h hg hcap)

theorem exec_embed_badOperand (h : s.bitlenOk = false ∨ s.geomOk = false) :
    exec .embed s = .next (raiseError s .badOperand) := by
  refine exec_error (i := .embed) ?_
  rcases h with h | h <;> simp [outcome, embedOutcome, h]

theorem exec_embed_insufficientCapacity (h : s.bitlenOk = true) (hg : s.geomOk = true)
    (hcap : s.cap < s.bitlen.toNat) :
    exec .embed s = .next (raiseError s (.insufficientCapacity s.bitlen.toNat s.cap)) :=
  exec_error (i := .embed) (by simp [outcome, embedOutcome, h, hg, hcap])

/-- EXTRACT from a valid image (44_stegocodec.md R197). -/
theorem exec_extract_ok (hg : s.geomOk = true) :
    exec .extract s = .next (completeOk (s.withStream (extractBits s.cpp s.pix s.extractLen))) :=
  exec_ok (i := .extract) (extractOutcome_ok hg)

/-! ### Streams -/

theorem stream_getElem {k : Nat} (hk : k < s.stream.length) : s.stream[k] = bitRead s.bits k :=
  readStream_getElem _ _ _ hk

end

/-- BITS after a write of the bits extracted: they stand in its whole bytes, then 0 (44_stegocodec.md R197,
20_memory.md R70). -/
theorem bitRead_writeStream_extractBits (buf : Buffer) (cpp : Nat) (pix : Buffer) {n k : Nat}
    (hk : k < 8 * ((n + 7) / 8)) :
    bitRead (writeStream buf (extractBits cpp pix n)) k = if k < n then lsbAt cpp pix k else false := by
  rw [bitRead_writeStream _ _ _ (by rwa [extractBits_length])]
  split
  case isTrue h => rw [List.getD_eq_getElem _ _ (by rwa [extractBits_length]), extractBits_getElem]
  case isFalse h => rw [List.getD_eq_default _ _ (by rw [extractBits_length]; omega)]

/-! ### The statements -/

/-- Settles O38: PIX is left with the stream embedded, whose bits are those of BITS. -/
theorem embedWritesTheStream : Obligations.EmbedWritesTheStream := by
  intro s hlen hg hcap
  have hexec := exec_embed_ok ((bitlenOk_iff s).2 hlen) hg hcap
  rw [completeOk_withPix] at hexec
  refine ⟨_, hexec, fun k hk => ⟨?carried, fun i _ => ?upper⟩, fun a ha => ?other⟩
  case carried =>
    have hk' : k < s.stream.length := by rwa [stream_length]
    rw [readByte_embedBits_pos (cpp_ge s) _ _ _ hk', setLsb_getLsbD, if_pos rfl, stream_getElem]
  case upper => exact readByte_embedBits_getLsbD_succ (cpp_ge s) _ _ _ i
  case other => exact readByte_embedBits_of_ne _ _ _ (by rwa [stream_length])

/-- Settles O39: the operand checks come before the capacity check. -/
theorem embedRefusals : Obligations.EmbedRefusals := by
  refine fun s => ⟨fun h => ?operand, fun ⟨hlen, hg, hcap⟩ => ?capacity⟩
  case operand => exact exec_embed_badOperand (h.imp_left (bitlenOk_eq_false_iff s).2)
  case capacity =>
    have hexec := exec_embed_insufficientCapacity ((bitlenOk_iff s).2 hlen) hg hcap
    rwa [raiseError, CmdError.req, BitVec.ofNat_toNat, BitVec.setWidth_eq] at hexec

/-- Settles O40: BITS is left with the bits extracted, whole bytes of them. -/
theorem extractReadsTheStream : Obligations.ExtractReadsTheStream := by
  intro s n hg hn
  have hexec := exec_extract_ok hg
  rw [completeOk_withStream, extractBits_length, State.extractLen, ← hn] at hexec
  refine ⟨_, hexec, fun k hk => ?read, fun k hge hk => ?padding, fun a ha => ?later⟩
  case read => rw [bitRead_writeStream_extractBits _ _ _ (by omega), if_pos hk, lsbAt]
  case padding => rw [bitRead_writeStream_extractBits _ _ _ hk, if_neg hge.not_gt]
  case later => exact readByte_writeStream_of_ge _ _ _ (by rwa [extractBits_length])

end Sys2Proof.Machine

/-! PROOFS of the family 45_engine.md. ENCODE: its refusals in the order of its checks, and the frame it embeds (R213,
R214, R245). -/

namespace Sys2Proof.Machine

section

variable {s : State}

/-! ### The checks -/

theorem msglenOk_eq_false_iff (s : State) : s.msglenOk = false ↔ 32768 < s.msglen.toNat := by
  rw [← Bool.not_eq_true, msglenOk_iff, Nat.not_le]

/-- The two key checks fail on a key out of range (60_exceptions.md R245). -/
theorem keys_bad_iff : (privOk s.priv = false ∨ pubOk s.pub = false) ↔
    (s.priv.toNat = 0 ∨ 23 ≤ s.priv.toNat ∨ 23 ≤ s.pub.toNat) := by
  rw [privOk_eq_false_iff, pubOk_eq_false_iff, or_assoc]

/-! ### The command -/

/-- ENCODE with every check passed (45_engine.md R213). -/
theorem exec_encode_ok (h : s.msglenOk = true) (hg : s.geomOk = true) (hp : privOk s.priv = true)
    (hq : pubOk s.pub = true) (hcap : 33 + 8 * s.msglen.toNat ≤ s.cap) :
    exec .encode s = .next (completeOk (s.withPix (embedBits s.cpp s.pix s.encodedFrame))) :=
  exec_ok (i := .encode) (encodeOutcome_ok h hg hp hq hcap)

theorem exec_encode_badOperand (h : s.msglenOk = false ∨ s.geomOk = false) :
    exec .encode s = .next (raiseError s .badOperand) := by
  refine exec_error (i := .encode) ?_
  rcases h with h | h <;> simp [outcome, encodeOutcome, h]

theorem exec_encode_invalidKeyRange (h : s.msglenOk = true) (hg : s.geomOk = true)
    (hkeys : privOk s.priv = false ∨ pubOk s.pub = false) :
    exec .encode s = .next (raiseError s .invalidKeyRange) := by
  refine exec_error (i := .encode) ?_
  rcases hkeys with hk | hk <;> simp [outcome, encodeOutcome, h, hg, hk]

theorem exec_encode_insufficientCapacity (h : s.msglenOk = true) (hg : s.geomOk = true) (hp : privOk s.priv = true)
    (hq : pubOk s.pub = true) (hcap : s.cap < 33 + 8 * s.msglen.toNat) :
    exec .encode s = .next (raiseError s (.insufficientCapacity (33 + 8 * s.msglen.toNat) s.cap)) :=
  exec_error (i := .encode) (by simp [outcome, encodeOutcome, h, hg, hp, hq, frameLen_eq, hcap])

/-- Settles O44: each refusal of ENCODE after the checks before it have passed. -/
theorem encodeRefusals : Obligations.EncodeRefusals := by
  refine fun s => ⟨fun h => ?operand, fun ⟨hlen, hg, hkeys⟩ => ?keys, fun ⟨hlen, hg, h1, h22, hpub, hcap⟩ => ?capacity⟩
  case operand => exact exec_encode_badOperand (h.imp_left (msglenOk_eq_false_iff s).2)
  case keys => exact exec_encode_invalidKeyRange ((msglenOk_iff s).2 hlen) hg (keys_bad_iff.2 hkeys)
  case capacity =>
    exact exec_encode_insufficientCapacity ((msglenOk_iff s).2 hlen) hg ((privOk_iff _).2 ⟨h1, h22⟩)
      ((pubOk_iff _).2 hpub) hcap

/-! ### The frame in the image -/

/-- The bit of a position that carries one is that bit of the stream (44_stegocodec.md R195). -/
theorem lsbAt_embedBits_of_lt {cpp : Nat} (hc : 3 ≤ cpp) (pix : Buffer) {l : List Bool} {k : Nat} (hk : k < l.length) :
    lsbAt cpp (embedBits cpp pix l) k = l.getD k false := by
  rw [lsbAt_embedBits hc, dif_pos hk, List.getD_eq_getElem _ _ hk]

theorem encodedFrame_getD_length {i : Nat} (hi : i < 32) :
    s.encodedFrame.getD i false = s.msglen.getLsbD (31 - i) := by
  rw [State.encodedFrame, frameBits_getD_length _ _ hi, transform_length, message_length, BitVec.testBit_toNat]

theorem encodedFrame_getD_kind : s.encodedFrame.getD 32 false = decide (s.kind = .binary) := by
  rw [State.encodedFrame, frameBits_getD_kind, Kind.bit_eq_decide]

/-- The payload is ciphered byte by byte with the secret of the pair (30_encoding.md R105). -/
theorem encodedFrame_getD_payload {j t : Nat} (hj : j < s.msglen.toNat) (ht : t < 8) :
    s.encodedFrame.getD (33 + 8 * j + t) false =
      (readByte .msg s.msg j ^^^ keystream (deriveSecret s.priv s.pub) j).getLsbD (7 - t) := by
  have hj' : j < (transform (deriveSecret s.priv s.pub) s.message).length := by simpa using hj
  rw [State.encodedFrame, frameBits_getD_payload _ _ hj' ht, transform_getElem, message_getElem]

end

/-- Settles O43: PIX is left with the frame embedded, each field of the frame read at its own positions. -/
theorem encodeEmbedsTheCipheredFrame : Obligations.EncodeEmbedsTheCipheredFrame := by
  intro s hlen hg h1 h22 hpub hcap
  have hexec := exec_encode_ok ((msglenOk_iff s).2 hlen) hg ((privOk_iff _).2 ⟨h1, h22⟩) ((pubOk_iff _).2 hpub) hcap
  rw [completeOk_withPix] at hexec
  have hbit {k : Nat} (hk : k < 33 + 8 * s.msglen.toNat) :=
    lsbAt_embedBits_of_lt (cpp_ge s) s.pix (l := s.encodedFrame) (k := k) (by rwa [encodedFrame_length])
  refine ⟨_, hexec, fun i hi => ?length, ?kind, fun j hj t ht => ?payload, fun a i => ?upper, fun a ha => ?other⟩
  case length => rw [hbit (by omega), encodedFrame_getD_length hi]
  case kind => rw [hbit (by omega), encodedFrame_getD_kind]
  case payload => rw [hbit (by omega), encodedFrame_getD_payload hj ht, keystream_eq, deriveSecret_eq]
  case upper => exact readByte_embedBits_getLsbD_succ (cpp_ge s) _ _ a i
  case other => exact readByte_embedBits_of_ne _ _ _ (by rwa [encodedFrame_length])

end Sys2Proof.Machine

/-! PROOFS of the family 45_engine.md. DECODE (R217 to R219): its frame check is that of UNFRAME on the bits EXTRACT
would write (R220), so the facts about the stream in BITS serve for the image. -/

namespace Sys2Proof.Machine

/-- The length the image declares in its first 32 bits (45_engine.md R217); under a name of its own the sum is never
evaluated. -/
def State.imageLen (s : State) : Nat := ∑ i ∈ Finset.range 32, (lsbAt s.cpp s.pix i).toNat * 2 ^ (31 - i)

/-- The state after an EXTRACT of the image's whole capacity (44_stegocodec.md R197): BITS holds every bit of the
image. -/
def State.extracted (s : State) : State := completeOk (s.withStream (extractBits s.cpp s.pix s.cap))

section

variable {s : State}

/-! ### The bits of the image as a stream in BITS -/

theorem extracted_bitlen (hg : s.geomOk = true) : s.extracted.bitlen.toNat = s.cap := by
  have hcap := cap_le hg
  rw [State.extracted, completeOk_bitlen, State.withStream_bitlen, extractBits_length, BitVec.toNat_ofNat,
    Nat.mod_eq_of_lt (by omega)]

theorem extracted_stream (hg : s.geomOk = true) : s.extracted.stream = extractBits s.cpp s.pix s.cap := by
  have hcap := cap_le hg
  exact stream_completeOk_withStream s (by rw [extractBits_length]; omega)

theorem extracted_bitRead {k : Nat} (hk : k < s.cap) : bitRead s.extracted.bits k = lsbAt s.cpp s.pix k := by
  rw [State.extracted, completeOk_bits, State.withStream_bits, bitRead_writeStream_extractBits _ _ _ (by omega),
    if_pos hk]

theorem extracted_declaredLen (h : 32 ≤ s.cap) : s.extracted.declaredLen = s.imageLen := by
  refine Finset.sum_congr rfl fun i hi => ?_
  rw [extracted_bitRead ((Finset.mem_range.1 hi).trans_le h)]

/-! ### The frame of the image -/

/-- The first `n` bytes after the header of the image (43_bitpacker.md R171). -/
def State.imagePayload (s : State) (n : Nat) : List Byte := streamBytes n ((extractBits s.cpp s.pix s.cap).drop 33)

@[simp] theorem imagePayload_length (s : State) (n : Nat) : (s.imagePayload n).length = n := streamBytes_length _ _

/-- An image that holds a whole frame (45_engine.md R217). -/
theorem unframeBits_image_of_fits (hg : s.geomOk = true) (h : 33 + 8 * s.imageLen ≤ s.cap) :
    unframeBits (extractBits s.cpp s.pix s.cap) =
      some (s.imagePayload s.imageLen, Kind.ofBit (lsbAt s.cpp s.pix 32)) := by
  have hlen := extracted_declaredLen (s := s) (by omega)
  rw [← extracted_stream hg, unframeBits_stream_of_fits (by rwa [extracted_bitlen hg, hlen]), hlen,
    extracted_bitRead (by omega), extracted_stream hg, State.imagePayload]

/-- An image with no room for a header, or for the length it declares (45_engine.md R218). -/
theorem unframeBits_image_of_not_fits (hg : s.geomOk = true)
    (h : s.cap < 33 ∨ (33 ≤ s.cap ∧ s.cap - 33 < 8 * s.imageLen)) :
    unframeBits (extractBits s.cpp s.pix s.cap) = none := by
  rw [← extracted_stream hg]
  refine unframeBits_stream_of_not_fits ?_
  rw [extracted_bitlen hg]
  refine h.imp_right fun ⟨hheader, hlong⟩ => ⟨hheader, ?_⟩
  rwa [extracted_declaredLen (by omega)]

/-- Byte `j` of the payload is the image's bits from position `33 + 8j` on (43_bitpacker.md R171). -/
theorem imagePayload_getLsbD {n j t : Nat} (hj : j < (s.imagePayload n).length) (ht : t < 8) (hg : s.geomOk = true)
    (hfits : 33 + 8 * n ≤ s.cap) :
    ((s.imagePayload n)[j]).getLsbD (7 - t) = lsbAt s.cpp s.pix (33 + 8 * j + t) := by
  have hjn : j < n := by rwa [imagePayload_length] at hj
  simp only [State.imagePayload, ← extracted_stream hg] at hj ⊢
  rw [streamBytes_drop_stream_getLsbD hj ht (by rwa [extracted_bitlen hg]), extracted_bitRead (by omega)]

/-! ### The command -/

/-- A consistent pair's public key is in range (41_keyagreement.md R144, R148). -/
theorem pubOk_of_pairOk {p q : Word} (h : pairOk p q = true) : pubOk q = true := by
  rw [pubOk_iff, (pairOk_iff p q).1 h]
  omega

/-- DECODE of an image that holds a frame, with a consistent pair (45_engine.md R217). -/
theorem exec_decode_ok {c : List Byte} {k : Kind} (hg : s.geomOk = true) (hp : privOk s.priv = true)
    (hpair : pairOk s.priv s.pub = true) (h : unframeBits (extractBits s.cpp s.pix s.cap) = some (c, k)) :
    exec .decode s = .next (completeOk (s.withMessage (transform (deriveSecret s.priv s.pub) c) k)) :=
  exec_ok (i := .decode) (decodeOutcome_ok hg hp (pubOk_of_pairOk hpair) hpair h)

theorem exec_decode_badOperand (hg : s.geomOk = false) : exec .decode s = .next (raiseError s .badOperand) :=
  exec_error (i := .decode) (by simp [outcome, decodeOutcome, hg])

theorem exec_decode_invalidKeyRange (hg : s.geomOk = true) (hkeys : privOk s.priv = false ∨ pubOk s.pub = false) :
    exec .decode s = .next (raiseError s .invalidKeyRange) := by
  refine exec_error (i := .decode) ?_
  rcases hkeys with hk | hk <;> simp [outcome, decodeOutcome, hg, hk]

/-- DECODE finds no frame, or does not look for one as the pair is not consistent (45_engine.md R218, R219). -/
theorem exec_decode_malformedFrame (hg : s.geomOk = true) (hp : privOk s.priv = true) (hq : pubOk s.pub = true)
    (h : pairOk s.priv s.pub = false ∨ unframeBits (extractBits s.cpp s.pix s.cap) = none) :
    exec .decode s = .next (raiseError s .malformedFrame) := by
  refine exec_error (i := .decode) ?_
  rcases h with h | h <;> simp [outcome, decodeOutcome, hg, hp, hq, h]

end

/-- Settles O46: each refusal of DECODE after the checks before it have passed. -/
theorem decodeRefusals : Obligations.DecodeRefusals := by
  intro s L hL
  rw [show L = s.imageLen from hL]
  refine ⟨exec_decode_badOperand, fun ⟨hg, hkeys⟩ => ?keys, fun ⟨hg, h1, h22, hpub, hbad⟩ => ?frame⟩
  case keys => exact exec_decode_invalidKeyRange hg (keys_bad_iff.2 hkeys)
  case frame =>
    refine exec_decode_malformedFrame hg ((privOk_iff _).2 ⟨h1, h22⟩) ((pubOk_iff _).2 hpub) ?_
    refine hbad.imp (fun hpair => ?_) (unframeBits_image_of_not_fits hg)
    rwa [← Bool.not_eq_true, pairOk_iff]

/-- Settles O45: MSG is left with the payload of the image deciphered. -/
theorem decodeRecoversTheMessage : Obligations.DecodeRecoversTheMessage := by
  intro s L hL hg h1 h22 hpair hfits
  rw [show L = s.imageLen from hL] at hfits ⊢
  have hexec := exec_decode_ok hg ((privOk_iff _).2 ⟨h1, h22⟩) ((pairOk_iff _ _).2 hpair)
    (unframeBits_image_of_fits hg hfits)
  rw [completeOk_withMessage, transform_length, imagePayload_length, Kind.ofBit_eq_ite] at hexec
  refine ⟨_, hexec, fun j hj t ht => ?_, fun a ha => ?_⟩
  · have hj' : j < (transform (deriveSecret s.priv s.pub) (s.imagePayload s.imageLen)).length := by
      rwa [transform_length, imagePayload_length]
    rw [readByte_writeBytes_zero_of_lt _ _ hj', transform_getElem, BitVec.getLsbD_xor,
      imagePayload_getLsbD _ ht hg hfits, keystream_eq, deriveSecret_eq]
  · exact readByte_writeBytes_zero_of_ge _ _ (by rwa [transform_length, imagePayload_length])

/-- Settles O51: an image of odd channels declares `2^32 - 1` bytes, more than any image holds, and one of even channels
declares none. -/
theorem imagesNeverEmbedded : Obligations.ImagesNeverEmbedded := by
  intro s hg h1 h22 hpair
  have hlen {b : Bool} (h : ∀ k < s.cap, lsbAt s.cpp s.pix k = b) (hcap : 33 ≤ s.cap) :
      s.imageLen = b.toNat * (2 ^ 32 - 1) := by
    have hsum : s.imageLen = ∑ i ∈ Finset.range 32, b.toNat * 2 ^ (31 - i) :=
      Finset.sum_congr rfl fun i hi => by rw [h i (by have := Finset.mem_range.1 hi; omega)]
    rw [hsum, ← Finset.mul_sum, show ∑ i ∈ Finset.range 32, 2 ^ (31 - i) = 2 ^ 32 - 1 by decide]
  constructor
  · intro hodd
    have hmax := cap_le hg
    have hframe : s.cap < 33 ∨ (33 ≤ s.cap ∧ s.cap - 33 < 8 * s.imageLen) := by
      refine (Nat.lt_or_ge s.cap 33).imp_right fun hcap => ⟨hcap, ?_⟩
      rw [hlen hodd hcap, Bool.toNat_true]
      omega
    obtain ⟨-, -, hmalformed⟩ := decodeRefusals s s.imageLen rfl
    exact ⟨_, hmalformed ⟨hg, h1, h22, by omega, .inr hframe⟩, rfl⟩
  · intro heven hcap
    have hzero : s.imageLen = 0 := by rw [hlen heven hcap, Bool.toNat_false, Nat.zero_mul]
    obtain ⟨b, hexec, -, hkept⟩ := decodeRecoversTheMessage s 0 hzero.symm hg h1 h22 hpair hcap
    exact ⟨_, hexec, rfl, rfl, if_neg (by simp [heven 32 hcap]), fun a => hkept a (Nat.zero_le a)⟩

end Sys2Proof.Machine

/-! PROOFS of the family 45_engine.md. DECODE of an image that ENCODE made, under the same pair and under another (R221,
R222): the frame comes back whole, and each message byte with the two keystream bytes of its position. -/

namespace Sys2Proof.Machine

/-! ### A message ciphered with one secret and deciphered with another -/

/-- A byte ciphered with one secret and deciphered with another, both in range, is the byte itself exactly when the two
are the same (42_keyedcipher.md R164, R165). -/
theorem xor_keystream_xor_keystream_eq_iff (b : Byte) {x y : Nat} (j : Nat) (hx : x ≤ 22) (hy : y ≤ 22) :
    b ^^^ keystream x j ^^^ keystream y j = b ↔ x = y := by
  rw [BitVec.xor_assoc, xor_left_eq_self_iff, xor_eq_zero_iff]
  exact ⟨keystream_injective hx hy, fun h => by rw [h]⟩

theorem readByte_writeBytes_transform_transform (s : State) (buf : Buffer) (x y : Nat) {j : Nat}
    (hj : j < s.msglen.toNat) :
    readByte .msg (writeBytes buf 0 (transform y (transform x s.message))) j =
      readByte .msg s.msg j ^^^ keystream x j ^^^ keystream y j := by
  rw [readByte_writeBytes_zero_of_lt _ _ (by simpa using hj), transform_getElem, transform_getElem, message_getElem]

/-! ### The image that ENCODE made -/

section

variable {s u : State}

theorem lsbAt_congr {cpp : Nat} {b b' : Buffer} (h : ∀ a, readByte .pix b a = readByte .pix b' a) (k : Nat) :
    lsbAt cpp b k = lsbAt cpp b' k := by
  rw [lsbAt, lsbAt, h]

/-- An image that holds the bytes ENCODE left unframes to the ciphered message and its Kind (45_engine.md R221). -/
theorem unframeBits_of_encoded (hcap : 33 + 8 * s.msglen.toNat ≤ s.cap) (hgeom : sameGeometry s u)
    (hpix : ∀ a, readByte .pix u.pix a = readByte .pix (embedBits s.cpp s.pix s.encodedFrame) a) :
    unframeBits (extractBits u.cpp u.pix u.cap) = some (transform (deriveSecret s.priv s.pub) s.message, s.kind) := by
  have hlen : (transform (deriveSecret s.priv s.pub) s.message).length < 2 ^ 32 := by
    rw [transform_length, message_length]
    exact s.msglen.isLt
  obtain ⟨tail, htail⟩ := extractBits_embedBits (cpp_ge s) s.pix s.encodedFrame s.cap
    (by rwa [encodedFrame_length])
  rw [← hgeom.cpp_eq, ← hgeom.cap_eq, extractBits_congr fun k _ => lsbAt_congr hpix k, htail]
  exact unframeBits_frameBits_append s.kind tail hlen

/-- DECODE under any consistent pair of an image that ENCODE made completes OK, with the length and the Kind, and with
the message deciphered with that pair's secret (45_engine.md R221, R222). -/
theorem exec_decode_of_encoded (hg : s.geomOk = true) (hcap : 33 + 8 * s.msglen.toNat ≤ s.cap)
    (hgeom : sameGeometry s u)
    (hpix : ∀ a, readByte .pix u.pix a = readByte .pix (embedBits s.cpp s.pix s.encodedFrame) a)
    (hp : privOk u.priv = true) (hpair : pairOk u.priv u.pub = true) :
    ∃ v, exec .decode u = .next v ∧ v.err = .ok ∧ v.msglen = s.msglen ∧ v.kind = s.kind ∧
      ∀ j < s.msglen.toNat, (readByte .msg v.msg j = readByte .msg s.msg j ↔
        deriveSecret s.priv s.pub = deriveSecret u.priv u.pub) := by
  refine ⟨_, exec_decode_ok (hgeom.geomOk_eq ▸ hg) hp hpair (unframeBits_of_encoded hcap hgeom hpix), rfl, ?length, rfl,
    fun j hj => ?bytes⟩
  case length =>
    rw [completeOk_msglen, State.withMessage_msglen, transform_length, transform_length, message_length,
      BitVec.ofNat_toNat, BitVec.setWidth_eq]
  case bytes =>
    rw [completeOk_msg, State.withMessage_msg, readByte_writeBytes_transform_transform s _ _ _ hj]
    exact xor_keystream_xor_keystream_eq_iff _ j (deriveSecret_le _ _) (deriveSecret_le _ _)

end

/-- ENCODE with a consistent pair, a valid geometry and room for the frame: PIX takes the frame, and the keys and the
geometry stay (45_engine.md R213, 10_state.md R29). -/
theorem exec_encode_of_pair {s : State} (h1 : 1 ≤ s.priv.toNat) (h22 : s.priv.toNat ≤ 22)
    (hpair : s.pub.toNat = 9 ^ s.priv.toNat % 23) (hg : s.geomOk = true) (hlen : s.msglen.toNat ≤ 32768)
    (hcap : 33 + 8 * s.msglen.toNat ≤ s.cap) :
    ∃ t, exec .encode s = .next t ∧ t.err = .ok ∧ t.pix = embedBits s.cpp s.pix s.encodedFrame ∧ t.priv = s.priv ∧
      t.pub = s.pub ∧ t.imgdim = s.imgdim ∧ t.alpha = s.alpha := by
  have hpairOk : pairOk s.priv s.pub = true := (pairOk_iff _ _).2 hpair
  have hexec := exec_encode_ok ((msglenOk_iff s).2 hlen) hg ((privOk_iff _).2 ⟨h1, h22⟩) (pubOk_of_pairOk hpairOk) hcap
  refine ⟨_, hexec, rfl, ?_, rfl, rfl, rfl, rfl⟩
  rw [completeOk_pix, State.withPix_pix]

/-- Settles O48: a byte comes back right exactly when the two secrets are equal. -/
theorem wrongSecretGarblesEveryByte : Obligations.WrongSecretGarblesEveryByte := by
  intro s h1 h22 hpair hg hlen hcap
  obtain ⟨t, hexec, herr, htpix, -, -, htdim, htalpha⟩ := exec_encode_of_pair h1 h22 hpair hg hlen hcap
  refine ⟨t, hexec, herr, fun u hu1 hu22 hupair hdim halpha hpix => ?_⟩
  rw [htdim] at hdim
  rw [htalpha] at halpha
  rw [htpix] at hpix
  obtain ⟨v, hdecode, hverr, hlength, hkind, hbytes⟩ := exec_decode_of_encoded hg hcap ⟨hdim.symm, halpha.symm⟩ hpix
    ((privOk_iff _).2 ⟨hu1, hu22⟩) ((pairOk_iff _ _).2 hupair)
  exact ⟨v, hdecode, hverr, hlength, hkind, fun heq j hj => (hbytes j hj).2 heq,
    fun hne j hj hbyte => hne ((hbytes j hj).1 hbyte)⟩

/-- Settles O47: the keys are those ENCODE used, so the two secrets are equal and every byte comes back right. -/
theorem decodeInvertsEncode : Obligations.DecodeInvertsEncode := by
  intro s h1 h22 hpair hg hlen hcap
  obtain ⟨t, hexec, herr, htpix, htpriv, htpub, htdim, htalpha⟩ := exec_encode_of_pair h1 h22 hpair hg hlen hcap
  refine ⟨t, hexec, herr, fun u hpriv hpub hdim halpha hpix => ?_⟩
  rw [htpriv] at hpriv
  rw [htpub] at hpub
  rw [htdim] at hdim
  rw [htalpha] at halpha
  rw [htpix] at hpix
  obtain ⟨v, hdecode, hverr, hlength, hkind, hbytes⟩ := exec_decode_of_encoded hg hcap ⟨hdim.symm, halpha.symm⟩ hpix
    ((privOk_iff _).2 (by rw [hpriv]; exact ⟨h1, h22⟩)) ((pairOk_iff _ _).2 (by rw [hpriv, hpub]; exact hpair))
  exact ⟨v, hdecode, hverr, hlength, hkind, fun j hj => (hbytes j hj).2 (by rw [hpriv, hpub])⟩

end Sys2Proof.Machine

/-! PROOFS of the family 45_engine.md. ENCODE as the chain DSEC, XFORM, FRAME, EMBED (R215): with the keys and the
message length good the first three leave in BITS the frame ENCODE embeds, and EMBED has the checks of ENCODE that are
left. -/

namespace Sys2Proof.Machine

/-! ### Commands in a row -/

theorem exists_exec_eq_next (i : Instr) (s : State) : ∃ t, exec i s = .next t := ⟨_, exec_eq i s⟩

theorem exec_unique {i : Instr} {s t u : State} (h : exec i s = .next t) (h' : exec i s = .next u) : t = u :=
  Host.Outcome.next.inj (h.symm.trans h')

theorem firstError_cons_ok (cs : List CompletionCode) : firstError (.ok :: cs) = firstError cs := if_pos rfl

theorem firstError_cons_of_ne {c : CompletionCode} (h : c ≠ .ok) (cs : List CompletionCode) :
    firstError (c :: cs) = c := if_neg h

theorem firstError_singleton (c : CompletionCode) : firstError [c] = c := by cases c <;> rfl

/-- A sequence of commands has no error exactly when every command completes OK. -/
theorem firstError_eq_ok_iff (l : List CompletionCode) : firstError l = .ok ↔ ∀ c ∈ l, c = .ok := by
  induction l with
  | nil => simp [firstError]
  | cons c cs ih =>
    rw [List.forall_mem_cons, ← ih]
    by_cases h : c = .ok
    · rw [h, firstError_cons_ok]
      exact (and_iff_right rfl).symm
    · rw [firstError_cons_of_ne h]
      exact iff_of_false h fun hc => h hc.1

theorem firstError_four_eq_ok_iff (a b c d : CompletionCode) :
    firstError [a, b, c, d] = .ok ↔ a = .ok ∧ b = .ok ∧ c = .ok ∧ d = .ok := by
  simp [firstError_eq_ok_iff]

/-- A message written to MSG with its length reads back. -/
theorem message_of_written {s : State} {b : Buffer} {m : List Byte} (hmsg : s.msg = writeBytes b 0 m)
    (hlen : s.msglen.toNat = m.length) : s.message = m := by
  apply List.ext_getElem (by rw [message_length, hlen])
  intro j h h'
  rw [message_getElem, hmsg, readByte_writeBytes_zero_of_lt _ _ h']

theorem exec_xform_badOperand {s : State} (h : s.msglenOk = false ∨ secretOk s.secret = false) :
    exec .xform s = .next (raiseError s .badOperand) := by
  refine exec_error (i := .xform) ?_
  rcases h with h | h <;> simp [outcome, xformOutcome, h]

/-! ### DSEC, XFORM and FRAME -/

/-- A derived secret as a register word is the derived secret, and it is a SharedSecret (60_exceptions.md R235 (d)). -/
theorem secret_of_derived {v p q : Word} (h : v = BitVec.ofNat 32 (deriveSecret p q)) :
    v.toNat = deriveSecret p q ∧ secretOk v = true := by
  have hsecret : v.toNat = deriveSecret p q := by rw [h, toNat_ofNat_deriveSecret, deriveSecret_eq]
  exact ⟨hsecret, (secretOk_iff v).2 (hsecret ▸ deriveSecret_le p q)⟩

/-- What DSEC and XFORM leave of the state `s` they start in and FRAME and EMBED keep (45_engine.md R215): the pair's
secret in SECRET, and in MSG the message of `s` ciphered with it. -/
structure CipheredFrom (s t : State) : Prop where
  secret_eq : t.secret = BitVec.ofNat 32 (deriveSecret s.priv s.pub)
  msglen_eq : t.msglen = s.msglen
  kind_eq : t.kind = s.kind
  msg_eq : t.msg = writeBytes s.msg 0 (transform (deriveSecret s.priv s.pub) s.message)
  geometry : sameGeometry s t

section

variable {s t u t1 t2 t3 t4 t5 : State}

theorem CipheredFrom.message_eq (h : CipheredFrom s t) : t.message = transform (deriveSecret s.priv s.pub) s.message :=
  message_of_written h.msg_eq (by rw [h.msglen_eq, transform_length, message_length])

theorem CipheredFrom.msglenOk_eq (h : CipheredFrom s t) : t.msglenOk = s.msglenOk := by
  rw [State.msglenOk, State.msglenOk, h.msglen_eq]

theorem CipheredFrom.withStream (h : CipheredFrom s t) (l : List Bool) : CipheredFrom s (t.withStream l) :=
  ⟨h.secret_eq, h.msglen_eq, h.kind_eq, h.msg_eq, h.geometry⟩

theorem CipheredFrom.withPix (h : CipheredFrom s t) (b : Buffer) : CipheredFrom s (t.withPix b) :=
  ⟨h.secret_eq, h.msglen_eq, h.kind_eq, h.msg_eq, h.geometry⟩

theorem CipheredFrom.completeOk (h : CipheredFrom s t) : CipheredFrom s (completeOk t) :=
  ⟨h.secret_eq, h.msglen_eq, h.kind_eq, h.msg_eq, h.geometry⟩

/-- With the keys in range and a message that fits MSG, DSEC and XFORM complete OK. -/
theorem cipheredFrom_of_exec (hp : privOk s.priv = true) (hq : pubOk s.pub = true) (hlen : s.msglenOk = true)
    (h1 : exec .dsec s = .next t1) (h2 : exec .xform t1 = .next t2) :
    t1.err = .ok ∧ t2.err = .ok ∧ t2.pix = s.pix ∧ CipheredFrom s t2 := by
  obtain rfl := exec_unique h1 (exec_dsec_ok hp hq)
  obtain ⟨hsecret, hok⟩ := secret_of_derived (p := s.priv) (q := s.pub) rfl
  obtain rfl := exec_unique h2 (exec_xform_ok hlen hok)
  refine ⟨rfl, rfl, rfl, ⟨rfl, rfl, rfl, ?_, ⟨rfl, rfl⟩⟩⟩
  rw [completeOk_secret, State.withSecret_secret, hsecret]
  rfl

/-- FRAME then puts in BITS the frame that ENCODE embeds. -/
theorem CipheredFrom.exec_frame (h : CipheredFrom s t) (hlen : s.msglenOk = true) (h3 : exec .frame t = .next u) :
    u.err = .ok ∧ u.pix = t.pix ∧ u.stream = s.encodedFrame ∧ CipheredFrom s u := by
  have hshort := (msglenOk_iff s).1 hlen
  obtain rfl := exec_unique h3 (exec_frame_ok (h.msglenOk_eq.trans hlen))
  refine ⟨rfl, rfl, ?_, (h.withStream _).completeOk⟩
  rw [stream_completeOk_withStream _ (by rw [frameBits_message_length, h.msglen_eq]; omega), h.message_eq, h.kind_eq]
  rfl

/-- One more XFORM restores the message (42_keyedcipher.md R164). -/
theorem CipheredFrom.exec_xform (h : CipheredFrom s t) (hlen : s.msglenOk = true) (h5 : exec .xform t = .next u)
    (a : Nat) : readByte .msg u.msg a = readByte .msg s.msg a := by
  obtain ⟨hsecret, hok⟩ := secret_of_derived h.secret_eq
  obtain rfl := exec_unique h5 (exec_xform_ok (h.msglenOk_eq.trans hlen) hok)
  rw [completeOk_msg, State.withMsg_msg, hsecret]
  rcases Nat.lt_or_ge a s.msglen.toNat with ha | ha
  · rw [readByte_writeBytes_transform_message_of_lt _ (by rwa [h.msglen_eq]), h.msg_eq,
      readByte_writeBytes_transform_message_of_lt _ ha, BitVec.xor_assoc, BitVec.xor_self, BitVec.xor_zero]
  · rw [readByte_writeBytes_transform_message_of_ge _ (by rwa [h.msglen_eq]), h.msg_eq,
      readByte_writeBytes_transform_message_of_ge _ ha]

/-! ### EMBED -/

/-- EMBED of the frame ENCODE embeds, in the same image, has the checks of ENCODE that are left once the keys and the
message length are good, and the same effect (45_engine.md R215). -/
theorem CipheredFrom.exec_embed (h : CipheredFrom s t) (hpix : t.pix = s.pix) (hstream : t.stream = s.encodedFrame)
    (hp : privOk s.priv = true) (hq : pubOk s.pub = true) (hlen : s.msglenOk = true) {e : State}
    (he : exec .encode s = .next e) (h4 : exec .embed t = .next u) :
    e.err = u.err ∧ (e.err = .ok → e.pix = u.pix ∧ CipheredFrom s u) := by
  have hshort := (msglenOk_iff s).1 hlen
  have hbitlen : t.bitlen.toNat = 33 + 8 * s.msglen.toNat := by rw [← stream_length, hstream, encodedFrame_length]
  have hbitlenOk : t.bitlenOk = true := (bitlenOk_iff t).2 (by omega)
  have hgeom := h.geometry.geomOk_eq
  have hcapEq := h.geometry.cap_eq
  cases hg : s.geomOk with
  | false =>
    obtain rfl := exec_unique he (exec_encode_badOperand (.inr hg))
    obtain rfl := exec_unique h4 (exec_embed_badOperand (.inr (hgeom.symm.trans hg)))
    exact ⟨rfl, nofun⟩
  | true =>
    rcases Nat.lt_or_ge s.cap (33 + 8 * s.msglen.toNat) with hcap | hcap
    · obtain rfl := exec_unique he (exec_encode_insufficientCapacity hlen hg hp hq hcap)
      obtain rfl := exec_unique h4
        (exec_embed_insufficientCapacity hbitlenOk (hgeom.symm.trans hg) (by rwa [hbitlen, ← hcapEq]))
      exact ⟨rfl, nofun⟩
    · obtain rfl := exec_unique he (exec_encode_ok hlen hg hp hq hcap)
      obtain rfl := exec_unique h4 (exec_embed_ok hbitlenOk (hgeom.symm.trans hg) (by rwa [hbitlen, ← hcapEq]))
      refine ⟨rfl, fun _ => ⟨?_, (h.withPix _).completeOk⟩⟩
      rw [completeOk_pix, completeOk_pix, State.withPix_pix, State.withPix_pix, hpix, hstream, h.geometry.cpp_eq]

/-! ### The chain -/

/-- With the keys in range ENCODE ends with the code of the chain, and with its PIX when that is OK. -/
theorem encode_chain_of_keys (hp : privOk s.priv = true) (hq : pubOk s.pub = true) (ht : exec .encode s = .next t)
    (h1 : exec .dsec s = .next t1) (h2 : exec .xform t1 = .next t2) (h3 : exec .frame t2 = .next t3)
    (h4 : exec .embed t3 = .next t4) (h5 : exec .xform t4 = .next t5) :
    t.err = firstError [t1.err, t2.err, t3.err, t4.err] ∧
      (t.err = .ok → t.pix = t4.pix ∧ ∀ a, readByte .msg t5.msg a = readByte .msg s.msg a) := by
  cases hlen : s.msglenOk with
  | false =>
    obtain rfl := exec_unique h1 (exec_dsec_ok hp hq)
    obtain rfl := exec_unique h2 (exec_xform_badOperand (.inl hlen))
    obtain rfl := exec_unique ht (exec_encode_badOperand (.inl hlen))
    exact ⟨rfl, nofun⟩
  | true =>
    obtain ⟨herr1, herr2, hpix2, hciphered2⟩ := cipheredFrom_of_exec hp hq hlen h1 h2
    obtain ⟨herr3, hpix3, hstream, hciphered3⟩ := hciphered2.exec_frame hlen h3
    obtain ⟨hcode, hok⟩ := hciphered3.exec_embed (hpix3.trans hpix2) hstream hp hq hlen ht h4
    constructor
    · rw [hcode, herr1, herr2, herr3, firstError_cons_ok, firstError_cons_ok, firstError_cons_ok,
        firstError_singleton]
    · intro herr
      obtain ⟨hpix, hciphered4⟩ := hok herr
      exact ⟨hpix, hciphered4.exec_xform hlen h5⟩

/-- With a key out of range neither ENCODE nor DSEC completes OK, and both end with InvalidKeyRange when the other
operands are good (60_exceptions.md R245). -/
theorem encode_chain_of_bad_keys (hkeys : privOk s.priv = false ∨ pubOk s.pub = false) (ht : exec .encode s = .next t)
    (h1 : exec .dsec s = .next t1) :
    t1.err = .invalidKeyRange ∧ t.err ≠ .ok ∧
      (s.msglenOk = true → s.geomOk = true → t.err = .invalidKeyRange) := by
  obtain rfl := exec_unique h1 (exec_dsec_error hkeys)
  cases h : s.msglenOk && s.geomOk with
  | true =>
    obtain ⟨hlen, hg⟩ := Bool.and_eq_true_iff.1 h
    obtain rfl := exec_unique ht (exec_encode_invalidKeyRange hlen hg hkeys)
    exact ⟨rfl, nofun, fun _ _ => rfl⟩
  | false =>
    obtain rfl := exec_unique ht (exec_encode_badOperand (Bool.and_eq_false_iff.1 h))
    refine ⟨rfl, nofun, fun hlen hg => ?_⟩
    rw [hlen, hg] at h
    cases h

end

/-- Settles O49: with the keys in range the codes agree, and else DSEC and ENCODE fail. -/
theorem encodeIsThePrimitiveChain : Obligations.EncodeIsThePrimitiveChain := by
  intro s
  obtain ⟨t, ht⟩ := exists_exec_eq_next .encode s
  obtain ⟨t1, h1⟩ := exists_exec_eq_next .dsec s
  obtain ⟨t2, h2⟩ := exists_exec_eq_next .xform t1
  obtain ⟨t3, h3⟩ := exists_exec_eq_next .frame t2
  obtain ⟨t4, h4⟩ := exists_exec_eq_next .embed t3
  obtain ⟨t5, h5⟩ := exists_exec_eq_next .xform t4
  refine ⟨t, t1, t2, t3, t4, t5, ht, h1, h2, h3, h4, h5, ?_⟩
  rw [← firstError_four_eq_ok_iff]
  cases hkeys : privOk s.priv && pubOk s.pub with
  | true =>
    obtain ⟨hp, hq⟩ := Bool.and_eq_true_iff.1 hkeys
    obtain ⟨hcode, hok⟩ := encode_chain_of_keys hp hq ht h1 h2 h3 h4 h5
    exact ⟨by rw [hcode], fun _ => hcode, hok⟩
  | false =>
    have hbad := Bool.and_eq_false_iff.1 hkeys
    obtain ⟨herr1, hne, hcode⟩ := encode_chain_of_bad_keys hbad ht h1
    rw [herr1, firstError_cons_of_ne (by decide)]
    refine ⟨iff_of_false hne (by decide), ?_, fun herr => absurd herr hne⟩
    rintro (⟨hp1, hp22, hpub⟩ | ⟨hlen, hg⟩)
    · have hrange := keys_bad_iff.1 hbad
      omega
    · exact hcode ((msglenOk_iff s).2 hlen) hg

end Sys2Proof.Machine

/-! PROOFS of the family 45_engine.md. DECODE with a consistent pair as the chain EXTRACT, UNFRAME, DSEC, XFORM (R220):
EXTRACT of the whole image leaves in BITS the stream DECODE unframes, and UNFRAME leaves in MSG the bytes DECODE
deciphers. -/

namespace Sys2Proof.Machine

section

variable {s t u t1 t2 t3 t4 : State}

/-- Of two messages of one length written to MSG the second is left. -/
theorem readByte_writeBytes_writeBytes (sp : BufId) (b : Buffer) {l l' : List Byte} (h : l.length = l'.length)
    (a : Nat) : readByte sp (writeBytes (writeBytes b 0 l) 0 l') a = readByte sp (writeBytes b 0 l') a := by
  rcases Nat.lt_or_ge a l'.length with ha | ha
  · exact readByte_writeBytes_congr sp _ _ ha
  · rw [readByte_writeBytes_zero_of_ge _ _ ha, readByte_writeBytes_zero_of_ge _ _ ha,
      readByte_writeBytes_zero_of_ge _ _ (h ▸ ha)]

/-! ### EXTRACT and UNFRAME -/

theorem exec_extract_badOperand (hg : s.geomOk = false) : exec .extract s = .next (raiseError s .badOperand) :=
  exec_error (i := .extract) (by simp [outcome, extractOutcome, hg])

/-- With MAXBITS at its largest value EXTRACT reads the whole of a valid image (44_stegocodec.md R198). -/
theorem exec_extract_whole (hg : s.geomOk = true) (h1 : exec .extract (s.withMaxbits 0xFFFFFFFF) = .next t1) :
    t1.err = .ok ∧ t1.bitlenOk = true ∧ t1.stream = extractBits s.cpp s.pix s.cap ∧ t1.msg = s.msg := by
  have hcap := cap_le hg
  have hlen : (s.withMaxbits 0xFFFFFFFF).extractLen = s.cap :=
    Nat.min_eq_right (hcap.trans (show 262144 ≤ (0xFFFFFFFF : Word).toNat by decide))
  have hexec : exec .extract (s.withMaxbits 0xFFFFFFFF) = .next (s.withMaxbits 0xFFFFFFFF).extracted := by
    rw [exec_extract_ok (s := s.withMaxbits 0xFFFFFFFF) hg, hlen]
    rfl
  obtain rfl := exec_unique h1 hexec
  have hbitlen := extracted_bitlen (s := s.withMaxbits 0xFFFFFFFF) hg
  exact ⟨rfl, (bitlenOk_iff _).2 (by rw [hbitlen]; exact hcap.trans (by decide)),
    extracted_stream (s := s.withMaxbits 0xFFFFFFFF) hg, rfl⟩

/-- UNFRAME leaves the message of the stream in MSG, and it fits (43_bitpacker.md R175). -/
theorem exec_unframe_leaves {m : List Byte} {k : Kind} (hlen : s.bitlenOk = true)
    (hframe : unframeBits s.stream = some (m, k)) (h : exec .unframe s = .next t) :
    t.err = .ok ∧ t.msglenOk = true ∧ t.message = m ∧ t.kind = k ∧ t.msglen = BitVec.ofNat 32 m.length ∧
      t.msg = writeBytes s.msg 0 m := by
  obtain rfl := exec_unique h (exec_unframe_ok hlen hframe)
  have hfits : m.length ≤ 32768 :=
    unframeBits_length_le hframe (by rw [stream_length]; exact (bitlenOk_iff s).1 hlen)
  have hmsglen : (completeOk (s.withMessage m k)).msglen.toNat = m.length := by
    rw [completeOk_msglen, State.withMessage_msglen, BitVec.toNat_ofNat, Nat.mod_eq_of_lt (by omega)]
  exact ⟨rfl, (msglenOk_iff _).2 (hmsglen ▸ hfits), message_of_written rfl hmsglen, rfl, rfl, rfl⟩

theorem exec_keeps_priv {i : Instr} (h : exec i s = .next t) : t.priv = s.priv := by
  obtain ⟨hpriv, -⟩ := commandsWriteOnlyTheirListedState i s t h
  exact hpriv

theorem exec_keeps_pub {i : Instr} (hi : i ≠ .dpub) (h : exec i s = .next t) : t.pub = s.pub := by
  obtain ⟨-, -, -, -, -, -, -, -, hpub, -⟩ := commandsWriteOnlyTheirListedState i s t h
  by_contra hne
  exact hi (hpub hne)

/-- EXTRACT and UNFRAME keep the keys (10_state.md R29). -/
theorem exec_extract_then_unframe_keys (h1 : exec .extract (s.withMaxbits 0xFFFFFFFF) = .next t1)
    (h2 : exec .unframe t1 = .next t2) : t2.priv = s.priv ∧ t2.pub = s.pub := by
  constructor
  · rw [exec_keeps_priv h2, exec_keeps_priv h1, State.withMaxbits_priv]
  · rw [exec_keeps_pub (by decide) h2, exec_keeps_pub (by decide) h1, State.withMaxbits_pub]

/-! ### The chain -/

/-- With PRIV in range DECODE ends with the code of the chain, and with its MSG, MSGLEN and KIND when that is OK. -/
theorem decode_chain_of_priv (hp : privOk s.priv = true) (hpair : pairOk s.priv s.pub = true)
    (ht : exec .decode s = .next t) (h1 : exec .extract (s.withMaxbits 0xFFFFFFFF) = .next t1)
    (h2 : exec .unframe t1 = .next t2) (h3 : exec .dsec t2 = .next t3) (h4 : exec .xform t3 = .next t4) :
    t.err = firstError [t1.err, t2.err, t3.err, t4.err] ∧
      (t.err = .ok → t.msglen = t4.msglen ∧ t.kind = t4.kind ∧
        ∀ a, readByte .msg t.msg a = readByte .msg t4.msg a) := by
  obtain ⟨hpriv2, hpub2⟩ := exec_extract_then_unframe_keys h1 h2
  have hq := pubOk_of_pairOk hpair
  cases hg : s.geomOk with
  | false =>
    obtain rfl := exec_unique ht (exec_decode_badOperand hg)
    obtain rfl := exec_unique h1 (exec_extract_badOperand (s := s.withMaxbits 0xFFFFFFFF) hg)
    exact ⟨rfl, nofun⟩
  | true =>
    obtain ⟨herr1, hbitlen, hstream, hmsg1⟩ := exec_extract_whole hg h1
    rw [herr1, firstError_cons_ok]
    rcases hframe : unframeBits (extractBits s.cpp s.pix s.cap) with _ | ⟨c, k⟩
    · obtain rfl := exec_unique ht (exec_decode_malformedFrame hg hp hq (.inr hframe))
      obtain rfl := exec_unique h2 (exec_unframe_malformedFrame hbitlen (hstream ▸ hframe))
      exact ⟨rfl, nofun⟩
    · obtain rfl := exec_unique ht (exec_decode_ok hg hp hpair hframe)
      obtain ⟨herr2, hlen2, hmessage2, hkind2, hmsglen2, hmsg2⟩ :=
        exec_unframe_leaves hbitlen (hstream ▸ hframe) h2
      obtain ⟨herr3, herr4, -, hciphered⟩ :=
        cipheredFrom_of_exec (by rwa [hpriv2]) (by rwa [hpub2]) hlen2 h3 h4
      rw [herr2, herr3, herr4]
      refine ⟨rfl, fun _ => ⟨?length, ?kind, fun a => ?bytes⟩⟩
      case length =>
        rw [hciphered.msglen_eq, hmsglen2, completeOk_msglen, State.withMessage_msglen, transform_length]
      case kind => rw [hciphered.kind_eq, hkind2, completeOk_kind, State.withMessage_kind]
      case bytes =>
        rw [hciphered.msg_eq, hpriv2, hpub2, hmessage2, hmsg2, hmsg1, completeOk_msg, State.withMessage_msg,
          readByte_writeBytes_writeBytes _ _ (transform_length _ c).symm]

/-- With PRIV out of range neither DECODE nor DSEC completes OK. -/
theorem decode_ne_ok_of_bad_priv (hp : privOk s.priv = false) (ht : exec .decode s = .next t) : t.err ≠ .ok := by
  cases hg : s.geomOk with
  | false => obtain rfl := exec_unique ht (exec_decode_badOperand hg); exact nofun
  | true => obtain rfl := exec_unique ht (exec_decode_invalidKeyRange hg (.inl hp)); exact nofun

theorem dsec_ne_ok_of_bad_priv (hp : privOk s.priv = false) (ht : exec .dsec s = .next t) : t.err ≠ .ok := by
  obtain rfl := exec_unique ht (exec_dsec_error (.inl hp))
  exact nofun

end

/-- Settles O50: with PRIV in range the codes agree, and else DSEC and DECODE fail. -/
theorem decodeIsThePrimitiveChain : Obligations.DecodeIsThePrimitiveChain := by
  intro s hpair
  have hpairOk : pairOk s.priv s.pub = true := (pairOk_iff _ _).2 hpair
  obtain ⟨t, ht⟩ := exists_exec_eq_next .decode s
  obtain ⟨t1, h1⟩ := exists_exec_eq_next .extract (s.withMaxbits 0xFFFFFFFF)
  obtain ⟨t2, h2⟩ := exists_exec_eq_next .unframe t1
  obtain ⟨t3, h3⟩ := exists_exec_eq_next .dsec t2
  obtain ⟨t4, h4⟩ := exists_exec_eq_next .xform t3
  refine ⟨t, t1, t2, t3, t4, ht, h1, h2, h3, h4, ?_⟩
  cases hp : privOk s.priv with
  | true =>
    obtain ⟨hcode, hok⟩ := decode_chain_of_priv hp hpairOk ht h1 h2 h3 h4
    exact ⟨by rw [← firstError_four_eq_ok_iff, hcode], fun _ _ => hcode, hok⟩
  | false =>
    obtain ⟨hpriv2, -⟩ := exec_extract_then_unframe_keys h1 h2
    have hne := decode_ne_ok_of_bad_priv hp ht
    have hne3 := dsec_ne_ok_of_bad_priv (by rwa [hpriv2]) h3
    refine ⟨iff_of_false hne fun ⟨_, _, herr3, _⟩ => hne3 herr3, fun hp1 hp22 => ?_, fun herr => absurd herr hne⟩
    rw [(privOk_iff _).2 ⟨hp1, hp22⟩] at hp
    cases hp

end Sys2Proof.Machine

/-! PROOFS of the family 60_exceptions.md. What a completion is: the success or the error of a command, with BUSY and
DONE, STATUS and irq after it (R230, R236, R238, R240), and the operands that XFORM, FRAME and EXTRACT refuse (R235). -/

namespace Sys2Proof.Machine

section

variable {s t : State} {i : Instr}

/-! ### Both ends of a command -/

/-- What a command leaves: its success completed, or one of its errors raised in the state it started in. -/
theorem exec_cases (h : exec i s = .next t) :
    (∃ u, Succeeds s i u ∧ t = completeOk u) ∨ (∃ e, Fails s i e ∧ t = raiseError s e) := by
  rcases outcome_cases s i with ⟨u, hu, hs⟩ | ⟨e, he, hf⟩
  · exact .inl ⟨u, hs, exec_unique h (exec_ok hu)⟩
  · exact .inr ⟨e, hf, exec_unique h (exec_error he)⟩

/-! ### The codes of a command -/

theorem ok_mem_possibleCodes (i : Instr) : CompletionCode.ok ∈ possibleCodes i := by cases i <;> exact .head _

/-- Each way a command can fail carries a code listed for it (60_exceptions.md R238). -/
theorem Fails.code_mem {e : CmdError} (h : Fails s i e) : e.code ∈ possibleCodes i := by
  cases h <;> simp [CmdError.code, possibleCodes]

/-! ### BUSY, DONE, STATUS and irq after a completion -/

@[simp] theorem complete_busy (s : State) (o : CmdOutcome) : (complete s o).busy = false := by cases o <;> rfl

@[simp] theorem complete_done (s : State) (o : CmdOutcome) : (complete s o).done = true := by cases o <;> rfl

/-- No command writes IE (10_state.md R29). -/
theorem exec_keeps_ie (h : exec i s = .next t) : t.ie = s.ie := by
  obtain ⟨-, -, -, -, hie, -⟩ := commandsWriteOnlyTheirListedState i s t h
  exact hie

/-- STATUS of an idle block with DONE set: the code in bits 7:4 above a 2 (10_state.md R36). -/
theorem statusWord_of_idle_done (hb : t.busy = false) (hd : t.done = true) :
    statusWord t = BitVec.ofNat 32 (2 + 16 * t.err.num) := by
  rw [statusWord, hb, hd, Bool.toNat_false, Bool.toNat_true, Nat.zero_add]

/-! ### Operands that denote no object -/

theorem secretOk_eq_false_iff (v : Word) : secretOk v = false ↔ 22 < v.toNat := by
  rw [← Bool.not_eq_true, secretOk_iff, Nat.not_le]

theorem exec_frame_badOperand (h : s.msglenOk = false) : exec .frame s = .next (raiseError s .badOperand) :=
  exec_error (i := .frame) (by simp [outcome, frameOutcome, h])

end

/-! ### The statements -/

/-- Settles O53: the completion is an error raised in `s`, whose detail is 0 unless the capacity is insufficient. -/
theorem errorsAreAllOrNothing : Obligations.ErrorsAreAllOrNothing := by
  intro i s t ht herr
  rcases exec_cases ht with ⟨u, -, rfl⟩ | ⟨e, -, rfl⟩
  · exact absurd (completeOk_err u) herr
  · exact ⟨rfl, CmdError.detail_eq_zero⟩

/-- Settles O54. -/
theorem onlyListedCodesAreProduced : Obligations.OnlyListedCodesAreProduced := by
  intro i s t ht
  rcases exec_cases ht with ⟨u, -, rfl⟩ | ⟨e, hf, rfl⟩
  · exact ok_mem_possibleCodes i
  · exact hf.code_mem

/-- Settles O21: the completion's fields give irq and STATUS, whose six values are the six codes' numbers. -/
theorem completionRaisesTheInterrupt : Obligations.CompletionRaisesTheInterrupt := by
  intro i s
  have hexec := exec_eq i s
  have hbusy := complete_busy s (outcome s i)
  have hdone := complete_done s (outcome s i)
  refine ⟨_, hexec, ?irq, hbusy, hdone, fun c v hcv hc => ?status⟩
  case irq => rw [State.irq, hdone, Bool.true_and, exec_keeps_ie hexec]
  case status =>
    obtain rfl : v = BitVec.ofNat 32 (2 + 16 * c.num) := by
      simp only [List.mem_cons, Prod.mk.injEq, List.not_mem_nil, or_false] at hcv
      rcases hcv with ⟨rfl, rfl⟩ | ⟨rfl, rfl⟩ | ⟨rfl, rfl⟩ | ⟨rfl, rfl⟩ | ⟨rfl, rfl⟩ | ⟨rfl, rfl⟩ <;> rfl
    rw [← hc]
    exact statusWord_of_idle_done hbusy hdone

/-- Settles O41: each command's refusal, with its checks read as bounds on the registers. -/
theorem badOperandsAreRefused : Obligations.BadOperandsAreRefused := by
  refine fun s => ⟨fun h => ?xform, fun h => ?frame, fun hg => ?extract⟩
  case xform =>
    exact exec_xform_badOperand (h.imp (msglenOk_eq_false_iff s).2 (secretOk_eq_false_iff s.secret).2)
  case frame => exact exec_frame_badOperand ((msglenOk_eq_false_iff s).2 h)
  case extract => exact exec_extract_badOperand hg

end Sys2Proof.Machine

/-! PROOFS of the family 70_reset_and_hazards.md. What the two resets leave in the registers and in each buffer (R260,
R263). -/

namespace Sys2Proof.Machine

section

variable {s : State}

/-! ### Registers after a reset -/

@[simp] theorem readReg_withReply (s : State) (r : Reply) (reg : Reg) :
    readReg (s.withReply r) reg = readReg s reg := by
  cases reg <;> rfl

/-- Neither reset leaves anything of the old registers (10_state.md R50). -/
theorem readReg_softReset (s : State) (reg : Reg) : readReg (softReset s) reg = readReg State.reset reg := by
  rw [softReset_eq]
  cases reg <;> rfl

theorem readReg_hardwareReset (s : State) (reg : Reg) : readReg (hardwareReset s) reg = readReg State.reset reg := by
  cases reg <;> rfl

@[simp] theorem softReset_busy (s : State) : (softReset s).busy = false := by rw [softReset_eq]; rfl

@[simp] theorem softReset_done (s : State) : (softReset s).done = false := by rw [softReset_eq]; rfl

@[simp] theorem softReset_agenda (s : State) : (softReset s).agenda = s.agenda := by rw [softReset_eq]; rfl

/-! ### Buffers after a reset -/

/-- A scrubbed buffer holds the free values of its next epoch (93_implementation_defined.md U1, U2). -/
theorem readByte_scrub (sp : BufId) (b : Buffer) (a : Nat) :
    readByte sp (scrub b) a = Config.freeByte sp (b.epoch + 1) a := rfl

theorem softReset_of_idle (hb : s.busy = false) : softReset s = resetRegisters s := by
  rw [softReset, hb, if_neg Bool.false_ne_true]

theorem softReset_buf_of_abandoned (hb : s.busy = true) {sp : BufId} (h : abandonedBuffer s.cmd = some sp) :
    (softReset s).buf sp = scrub (s.buf sp) := by
  rw [softReset_buf, if_pos ⟨hb, h⟩]

theorem abandonedBuffer_of_softReset_buf_ne {sp : BufId} (h : (softReset s).buf sp ≠ s.buf sp) :
    abandonedBuffer s.cmd = some sp := by
  rw [softReset_buf] at h
  split at h
  case isTrue hab => exact hab.2
  case isFalse => exact absurd rfl h

end

/-! ### The buffer of an abandoned command -/

theorem abandonedBuffer_eq_some_iff (w : Word) (sp : BufId) :
    abandonedBuffer w = some sp ↔ ∃ i, w = encode i ∧ outputBuffer i = some sp := by
  simp only [← decode_eq_ok_iff]
  cases hd : decode w <;> simp [abandonedBuffer, hd]

theorem outputBuffer_eq_msg_iff (i : Instr) : outputBuffer i = some .msg ↔ i = .xform ∨ i = .unframe ∨ i = .decode := by
  cases i <;> simp [outputBuffer]

theorem outputBuffer_eq_bits_iff (i : Instr) : outputBuffer i = some .bits ↔ i = .frame ∨ i = .extract := by
  cases i <;> simp [outputBuffer]

theorem outputBuffer_eq_pix_iff (i : Instr) : outputBuffer i = some .pix ↔ i = .embed ∨ i = .encode := by
  cases i <;> simp [outputBuffer]

/-- XFORM, UNFRAME and DECODE write MSG (10_state.md R29). -/
theorem abandonedBuffer_eq_msg_iff (w : Word) : abandonedBuffer w = some .msg ↔ w = 3 ∨ w = 5 ∨ w = 9 := by
  simp [abandonedBuffer_eq_some_iff, outputBuffer_eq_msg_iff, and_or_left, exists_or, encode]

/-- FRAME and EXTRACT write BITS (10_state.md R29). -/
theorem abandonedBuffer_eq_bits_iff (w : Word) : abandonedBuffer w = some .bits ↔ w = 4 ∨ w = 7 := by
  simp [abandonedBuffer_eq_some_iff, outputBuffer_eq_bits_iff, and_or_left, exists_or, encode]

/-- EMBED and ENCODE write PIX (10_state.md R29). -/
theorem abandonedBuffer_eq_pix_iff (w : Word) : abandonedBuffer w = some .pix ↔ w = 6 ∨ w = 8 := by
  simp [abandonedBuffer_eq_some_iff, outputBuffer_eq_pix_iff, and_or_left, exists_or, encode]

/-! ### The statements -/

/-- A write to CTRL with SRST set is the soft reset, idle or busy, whatever bit 0 is (10_state.md R35). -/
theorem busStep_softReset (s : State) {v : Word} (hv : v[1] = true) :
    busStep s (.write 32 (regOffset .ctrl) v.toNat) = (softReset s).withReply .written := by
  rw [busStep_writeReg_of_some (writeReg_ctrl s v), writeCtrl, if_pos hv]

/-- Settles O7: on an idle block the soft reset is a register reset. -/
theorem softResetWhenIdleKeepsBuffers : Obligations.SoftResetWhenIdleKeepsBuffers := by
  intro s v hb hv
  have hreset := busStep_softReset s hv
  rw [softReset_of_idle hb] at hreset
  exact hreset

/-- Settles O8: the soft reset of a busy block scrubs the buffer of its command, which the word in CMD decides. -/
theorem softResetWhenBusyAbandonsTheCommand : Obligations.SoftResetWhenBusyAbandonsTheCommand := by
  intro s v hb hv
  have changed {sp : BufId} (h : (softReset s).buf sp ≠ s.buf sp) := abandonedBuffer_of_softReset_buf_ne h
  have scrubbed {sp : BufId} (h : abandonedBuffer s.cmd = some sp) (a : Nat) :
      readByte sp ((softReset s).buf sp) a = Config.freeByte sp ((s.buf sp).epoch + 1) a := by
    rw [softReset_buf_of_abandoned hb h, readByte_scrub]
  refine ⟨_, busStep_softReset s hv, fun r => ?regs, softReset_busy s, softReset_done s, softReset_agenda s, rfl, ?_⟩
  case regs => rw [readReg_withReply, readReg_softReset]
  simp only [← abandonedBuffer_eq_msg_iff, ← abandonedBuffer_eq_bits_iff, ← abandonedBuffer_eq_pix_iff]
  exact ⟨changed (sp := .msg), changed (sp := .bits), changed (sp := .pix),
    scrubbed (sp := .msg), scrubbed (sp := .bits), scrubbed (sp := .pix)⟩

theorem step_of_agenda_hwReset {s : State} {rest : List Event} (h : s.agenda = .hwReset :: rest) :
    step s = .next (hardwareReset (s.withAgenda rest)) := by rw [step, nextStep, h]; rfl

/-- Settles O9: of the block before the reset only the buffers' epochs are left, each one further. -/
theorem hardwareResetForgetsEverything : Obligations.HardwareResetForgetsEverything := by
  intro s rest hag
  refine ⟨_, step_of_agenda_hwReset hag, readReg_hardwareReset _, rfl, rfl, rfl, fun sp a => ?_⟩
  rw [hardwareReset_buf, readByte_scrub, State.buf_withAgenda]

end Sys2Proof.Machine

/-! PROOFS of the family 70_reset_and_hazards.md. Every step takes one event off the agenda, and a command that no reset
abandons stays in flight until the engine's turn (R282, log entries 1 and 11). -/

namespace Sys2Proof.Machine

section

variable {s t : State}

/-! ### The engine's turn -/

/-- No command is without an end, and none looks at what is coming (40_command_protocol.md R124, R128). -/
theorem engineStep_completes (hb : s.busy = true) :
    ∃ t, engineStep s = .next t ∧ t.busy = false ∧ t.done = true ∧ t.cmd = s.cmd ∧ t.agenda = s.agenda := by
  rcases engineStep_cases s with ⟨hidle, -⟩ | ⟨i, -, -, he⟩ | ⟨e, -, -, he⟩
  · rw [hidle] at hb; cases hb
  · obtain ⟨-, -, -, -, -, hcmd, hag, -⟩ := commandsWriteOnlyTheirListedState i s _ (exec_eq i s)
    exact ⟨_, he, complete_busy s _, complete_done s _, hcmd, hag⟩
  · exact ⟨_, he, rfl, rfl, rfl, rfl⟩

/-- Busy or not before its turn, the engine leaves the block idle. -/
theorem engineStep_ends_idle (s : State) : ∃ t, engineStep s = .next t ∧ t.busy = false ∧ t.agenda = s.agenda := by
  cases hb : s.busy with
  | true =>
    obtain ⟨t, he, hidle, -, -, hag⟩ := engineStep_completes hb
    exact ⟨t, he, hidle, hag⟩
  | false => exact ⟨s, by rw [engineStep, hb, if_neg Bool.false_ne_true], hb, rfl⟩

/-! ### The agenda -/

theorem step_of_agenda_bus {x : BusTx} {rest : List Event} (h : s.agenda = .bus x :: rest) :
    step s = .next (busStep (s.withAgenda rest) x) := by rw [step, nextStep, h]; rfl

theorem writeReg_agenda {r : Reg} {v : Word} (h : writeReg s r v = some t) : t.agenda = s.agenda := by
  rw [writeReg] at h
  split at h
  · cases h
  · cases r <;> cases h
    case ctrl.refl =>
      rw [writeCtrl]
      split
      · exact softReset_agenda s
      · rfl
    all_goals rfl

theorem busWrite_agenda {bits a data : Nat} (h : busWrite s bits a data = some t) : t.agenda = s.agenda := by
  rcases busWrite_cases s bits a data with ⟨r, -, -, he⟩ | ⟨sp, i, -, -, -, -, he⟩ | he <;> rw [he] at h
  · exact writeReg_agenda h
  · obtain rfl := Option.some.inj h
    cases sp <;> rfl
  · cases h

/-- A transaction leaves what comes after it, also one that resets the block (log entry 1). -/
theorem busStep_agenda (s : State) (x : BusTx) : (busStep s x).agenda = s.agenda := by
  cases x with
  | read bits a => rfl
  | write bits a data =>
    cases hw : busWrite s bits a data with
    | none => rw [busStep_write_of_none hw]; rfl
    | some t =>
      have ht : t.agenda = s.agenda := busWrite_agenda hw
      rw [busStep_write_of_some hw]; exact ht

/-- Every step answers a next state and takes the first event, if there is one, off the agenda (00_scope.md R15). -/
theorem exists_step_eq_next (s : State) : ∃ t, step s = .next t ∧ t.agenda = s.agenda.tail := by
  rcases step_cases s with ⟨hag, he⟩ | ⟨rest, hag, he⟩ | ⟨x, rest, hag, he⟩ | ⟨rest, hag, he⟩ <;> rw [he, hag]
  · obtain ⟨t, ht, -, htag⟩ := engineStep_ends_idle s
    exact ⟨t, ht, htag.trans hag⟩
  · obtain ⟨t, ht, -, htag⟩ := engineStep_ends_idle (s.withAgenda rest)
    exact ⟨t, ht, htag⟩
  · exact ⟨_, rfl, busStep_agenda _ x⟩
  · exact ⟨_, rfl, rfl⟩

/-- One step for each coming event, and one for the engine. -/
theorem run_uses_up_agenda (l : List Event) (hag : s.agenda = l) :
    ∃ t : State, core.run (l.length + 1) s = .next t ∧ t.runOver := by
  induction l generalizing s with
  | nil =>
    obtain ⟨t, ht, hidle, htag⟩ := engineStep_ends_idle s
    exact ⟨t, core_run_succ ((step_of_agenda_nil hag).trans ht), htag.trans hag, hidle⟩
  | cons e l ih =>
    obtain ⟨u, hu, huag⟩ := exists_step_eq_next s
    obtain ⟨t, ht, hover⟩ := ih (huag.trans (congrArg List.tail hag))
    exact ⟨t, (core_run_succ hu).trans ht, hover⟩

/-! ### A command in flight -/

/-- The command in flight is complete after some number of steps, at most `n` (70_reset_and_hazards.md R282). -/
def State.CompletesWithin (s : State) (n : Nat) : Prop :=
  ∃ k ≤ n, ∃ t : State, core.run k s = .next t ∧ t.busy = false ∧ t.done = true ∧ t.cmd = s.cmd

theorem State.CompletesWithin.of_step {n : Nat} (hst : step s = .next t) (hcmd : t.cmd = s.cmd)
    (h : t.CompletesWithin n) : s.CompletesWithin (n + 1) := by
  obtain ⟨k, hk, u, hu, hidle, hdone, hucmd⟩ := h
  exact ⟨k + 1, Nat.succ_le_succ hk, u, (core_run_succ hst).trans hu, hidle, hdone, hucmd.trans hcmd⟩

/-- When the step is the engine's turn, whatever is still coming, one step is enough. -/
theorem State.CompletesWithin.of_engine {l : List Event} (n : Nat) (hb : s.busy = true)
    (hst : step s = engineStep (s.withAgenda l)) : s.CompletesWithin (n + 1) := by
  obtain ⟨t, ht, hidle, hdone, hcmd, -⟩ := engineStep_completes (s := s.withAgenda l) hb
  exact .of_step (hst.trans ht) hcmd ⟨0, n.zero_le, t, rfl, hidle, hdone, rfl⟩

/-- Until the engine's turn, transactions that are no soft reset leave the command in flight. -/
theorem completesWithin_of_no_reset (l : List Event) (hag : s.agenda = l) (hb : s.busy = true)
    (hhw : Event.hwReset ∉ l) (hsoft : ∀ data, Event.bus (.write 32 0x008 data) ∈ l → data.testBit 1 = false) :
    s.CompletesWithin (l.length + 1) := by
  induction l generalizing s with
  | nil => exact .of_engine (l := s.agenda) 0 hb (step_of_agenda_nil hag)
  | cons e l ih =>
    cases e with
    | hwReset => exact absurd List.mem_cons_self hhw
    | engine => exact .of_engine _ hb (step_of_agenda_engine hag)
    | bus x =>
      have hstep := step_of_agenda_bus hag
      obtain ⟨ie, r, hbus⟩ := busStep_busy (s := s.withAgenda l) hb x
        fun data hx => hsoft data (hx ▸ List.mem_cons_self)
      rw [hbus] at hstep
      exact .of_step hstep rfl (ih rfl hb (fun h => hhw (List.mem_cons_of_mem _ h))
        fun data h => hsoft data (List.mem_cons_of_mem _ h))

end

/-- Settles O58: both halves by induction on the coming events. -/
theorem everyCommandCompletes : Obligations.EveryCommandCompletes :=
  ⟨fun s hb hhw hsoft => completesWithin_of_no_reset s.agenda rfl hb hhw hsoft,
    fun s => run_uses_up_agenda s.agenda rfl⟩

end Sys2Proof.Machine
